-- ==== Sys2Proof/Word.lean ====
section
/-! DEFINITION. The words of RTTY-CORE and the shift state. Every value is an unsigned integer of a stated width
(spec/00_scope.md R8); widths are those of spec/10_state.md R20. -/

namespace Sys2Proof

/-- A character, a streamed byte or a sample (40_baudot_codec.md R127, 30_encoding.md R100). -/
abbrev Byte := BitVec 8

/-- A Baudot code, format B5 (30_encoding.md R96); bit 0 is the unit sent first. -/
abbrev Code := BitVec 5

/-- The ShiftState, "enumeration {Letters, Figures}" (10_state.md R25). -/
inductive Shift where
  | letters
  | figures
  deriving DecidableEq, Repr

end Sys2Proof
end

