-- ==== Sys2Proof/Config.lean ====
section
/-! DEFINITION. The implementation parameters of spec/00_scope.md R6 as one record, and the values the spec leaves open
("any value", 93_implementation_defined.md) as constants with no body. The default instantiation of R6 is
`Config.std` in Machine/Params.lean; a machine carries its own `Config` (`State.cfg`, Machine/State.lean). -/

namespace Sys2Proof

/-- The parameters of RTTY-CORE, 00_scope.md R6, one field a row. `PLAN_MAX` is computed from `msgMax`
(`Config.planMax`), XMEM is carried in the state (10_state.md R43). -/
structure Config where
  /-- F_DDS: DDS ticks per second. -/
  fDds : Nat
  /-- F_PB: playback ticks per second. -/
  fPb : Nat
  /-- SENTINEL: the end-of-stream byte (fixed at 0xFF by R6). -/
  sentinel : Byte
  /-- SENT_THRESH: the run of sentinel bytes that ends a playback, at least 1. -/
  sentThresh : Nat
  /-- EMPTY_SHIFT: the initial shift state of an empty message. -/
  emptyShift : Shift
  /-- DEF_HIGH_HZ. -/
  defHighHz : BitVec 16
  /-- DEF_LOW_HZ. -/
  defLowHz : BitVec 16
  /-- DEF_BAUD_C, in hundredths of a baud. -/
  defBaudC : BitVec 16
  /-- BAUDOT_LTRS: entry `k` is the character of code `k`, `none` where unassigned. -/
  baudotLtrs : List (Option Byte)
  /-- BAUDOT_FIGS. -/
  baudotFigs : List (Option Byte)
  /-- CODE_LTRS. -/
  codeLtrs : Code
  /-- CODE_FIGS. -/
  codeFigs : Code
  /-- SINE: the 256 samples of 20_memory.md R64, in the rows of 16 the rule prints. -/
  sine : List (List Byte)
  /-- DAC_CFG: the configuration nibble of a converter frame. -/
  dacCfg : BitVec 4
  /-- MEM_OPCODE: the opcode byte of the memory command word. -/
  memOpcode : Byte
  /-- MEM_START: the starting address of the stream (fixed at 0 by R6). -/
  memStart : BitVec 24
  /-- MSG_MAX: the capacity of the message buffer in characters. -/
  msgMax : Nat
  deriving DecidableEq, Repr

/-- What the external memory answers at a byte index for which the state supplies no byte: any value
(XMEM is "an arbitrary total function", 93_implementation_defined.md U14; it is an uninterpreted constant). Log 5. -/
opaque Config.xmemRest : Nat → BitVec 8

/-- What a cell of MSG holds that nothing has written: any value, never read in a reachable state
(93_implementation_defined.md U13, 10_state.md R49). Log 7. -/
opaque Config.msgUnwritten : Nat → BitVec 8

/-- What a cell of PLAN holds that nothing has written: any value, never read in a reachable state
(93_implementation_defined.md U13, 10_state.md R49). Log 7. -/
opaque Config.planUnwritten : Nat → Bool

/-- HOLDTICKS at BAUD_C = 0, where 42_dds_synth.md R164 divides by zero ("B >= 1") and 10_state.md R23 says the value
can never be held: no value is chosen. Log 8. -/
opaque Config.holdTicksAtZero : BitVec 32

/-- XPOS after a memory-link transaction that reset cut, for the `n`-th cut: "what the device makes of it is outside the
block" (70_reset_and_hazards.md R282), so any position. Log 22. -/
opaque Config.xposAfterCut : Nat → Nat

end Sys2Proof
end

