-- ==== Sys2Proof/Machine/Params.lean ====
section
/-! DEFINITION. The default instantiation of the parameters of spec/00_scope.md R6: the two code tables
(40_baudot_codec.md R121, R122), the sine table (20_memory.md R64) and the constants. The machine runs on
the `Config` its state carries, which is this one unless a run starts from `State.resetWith` of another (R7; log 9). -/

namespace Sys2Proof

/-- PLAN_MAX = 8 x (3 + 2 x MSG_MAX), 00_scope.md R6 and 41_bitstream_framer.md R148. -/
def Config.planMax (cfg : Config) : Nat := 8 * (3 + 2 * cfg.msgMax)

/-- BAUDOT_LTRS, 40_baudot_codec.md R121, in code order from 0x00. -/
def lettersTable : List (Option Byte) := [
    none, some 0x45, some 0x0A, some 0x41, some 0x20, some 0x53, some 0x49, some 0x55,
    some 0x0D, some 0x44, some 0x52, some 0x4A, some 0x4E, some 0x46, some 0x43, some 0x4B,
    some 0x54, some 0x5A, some 0x4C, some 0x57, some 0x48, some 0x59, some 0x50, some 0x51,
    some 0x4F, some 0x42, some 0x47, none, some 0x4D, some 0x58, some 0x56, none]

/-- BAUDOT_FIGS, 40_baudot_codec.md R122, in code order from 0x00. -/
def figuresTable : List (Option Byte) := [
    none, some 0x33, some 0x0A, some 0x2D, some 0x20, some 0x27, some 0x38, some 0x37,
    some 0x0D, some 0x05, some 0x34, some 0x07, some 0x2C, none, some 0x3A, some 0x28,
    some 0x35, some 0x2B, some 0x29, some 0x32, none, some 0x36, some 0x30, some 0x31,
    some 0x39, some 0x3F, none, none, some 0x2E, some 0x2F, some 0x3D, none]

/-- The US-TTY variant of BAUDOT_FIGS, an alternative instantiation (93_implementation_defined.md G2). -/
def usTtyFiguresTable : List (Option Byte) := [
    none, some 0x33, some 0x0A, some 0x2D, some 0x20, some 0x07, some 0x38, some 0x37,
    some 0x0D, some 0x24, some 0x34, some 0x27, some 0x2C, some 0x21, some 0x3A, some 0x28,
    some 0x35, some 0x22, some 0x29, some 0x32, some 0x23, some 0x36, some 0x30, some 0x31,
    some 0x39, some 0x3F, some 0x26, none, some 0x2E, some 0x2F, some 0x3B, none]

/-- SINE, the 256 entries printed in 20_memory.md R64, one printed row a line. -/
def sineTable : List (List Byte) := [
  [128, 131, 134, 137, 140, 144, 147, 150, 153, 156, 159, 162, 165, 168, 171, 174],
  [177, 179, 182, 185, 188, 191, 193, 196, 199, 201, 204, 206, 209, 211, 213, 216],
  [218, 220, 222, 224, 226, 228, 230, 232, 234, 235, 237, 239, 240, 241, 243, 244],
  [245, 246, 248, 249, 250, 250, 251, 252, 253, 253, 254, 254, 254, 255, 255, 255],
  [255, 255, 255, 255, 254, 254, 254, 253, 253, 252, 251, 250, 250, 249, 248, 246],
  [245, 244, 243, 241, 240, 239, 237, 235, 234, 232, 230, 228, 226, 224, 222, 220],
  [218, 216, 213, 211, 209, 206, 204, 201, 199, 196, 193, 191, 188, 185, 182, 179],
  [177, 174, 171, 168, 165, 162, 159, 156, 153, 150, 147, 144, 140, 137, 134, 131],
  [128, 125, 122, 119, 116, 112, 109, 106, 103, 100, 97, 94, 91, 88, 85, 82],
  [79, 77, 74, 71, 68, 65, 63, 60, 57, 55, 52, 50, 47, 45, 43, 40],
  [38, 36, 34, 32, 30, 28, 26, 24, 22, 21, 19, 17, 16, 15, 13, 12],
  [11, 10, 8, 7, 6, 6, 5, 4, 3, 3, 2, 2, 2, 1, 1, 1],
  [1, 1, 1, 1, 2, 2, 2, 3, 3, 4, 5, 6, 6, 7, 8, 10],
  [11, 12, 13, 15, 16, 17, 19, 21, 22, 24, 26, 28, 30, 32, 34, 36],
  [38, 40, 43, 45, 47, 50, 52, 55, 57, 60, 63, 65, 68, 71, 74, 77],
  [79, 82, 85, 88, 91, 94, 97, 100, 103, 106, 109, 112, 116, 119, 122, 125]]

/-- The default parameters of 00_scope.md R6. -/
def Config.std : Config where
  fDds := 80000
  fPb := 8000
  sentinel := 0xFF
  sentThresh := 250
  emptyShift := .letters
  defHighHz := 2125
  defLowHz := 2295
  defBaudC := 4545
  baudotLtrs := lettersTable
  baudotFigs := figuresTable
  codeLtrs := 0x1F
  codeFigs := 0x1B
  sine := sineTable
  dacCfg := 0x3
  memOpcode := 0x03
  memStart := 0x000000
  msgMax := 256

/-- The instantiation that 93_implementation_defined.md G2 offers for the Figures table. -/
def Config.usTty : Config := { Config.std with baudotFigs := usTtyFiguresTable }

/-- The two code tables by shift state (20_memory.md R63: "two disjoint 32-entry code tables"). -/
def Config.table (cfg : Config) : Shift → List (Option Byte)
  | .letters => cfg.baudotLtrs
  | .figures => cfg.baudotFigs

end Sys2Proof
end

