-- ==== Sys2Proof/Machine/Codec.lean ====
section
/-! DEFINITION. The Baudot Codec (spec/40_baudot_codec.md): LOOKUP, the shift codes, and the invariants any two code tables
must satisfy. It has no state. -/

namespace Sys2Proof

/-- `other(s) = 1 - s` (40_baudot_codec.md R124). -/
def Shift.other : Shift → Shift
  | .letters => .figures
  | .figures => .letters

end Sys2Proof

namespace Sys2Proof.Machine

/-- `T[k]`: the character of code `k` in the table of `t`, `none` where unassigned (20_memory.md R63). Also
`decode(k, s)` of 40_baudot_codec.md R130, which the block itself never computes. -/
def tableAt (cfg : Config) (t : Shift) (k : Code) : Option Byte := (cfg.table t).getD k.toNat none

/-- The first index of a list at which `p` holds, counted from `n`. -/
def indexFrom {α : Type} (p : α → Bool) : List α → Nat → Option Nat
  | [], _ => none
  | x :: xs, n => if p x then some n else indexFrom p xs (n + 1)

/-- LOOKUP: the code of character `c` in the table of `t`, or `none` (40_baudot_codec.md R120). The code is unique in a
lawful table (R125). -/
def lookup (cfg : Config) (c : Byte) (t : Shift) : Option Code :=
  (indexFrom (fun e => e == some c) (cfg.table t) 0).map (BitVec.ofNat 5)

/-- `shiftcode(s)` (40_baudot_codec.md R124). -/
def shiftCode (cfg : Config) : Shift → Code
  | .letters => cfg.codeLtrs
  | .figures => cfg.codeFigs

/-- The table of `t` assigns the character `c` a code. -/
def assigned (cfg : Config) (t : Shift) (c : Byte) : Bool := (lookup cfg c t).isSome

/-- A character absent from both tables (40_baudot_codec.md R126). -/
def unencodable (cfg : Config) (c : Byte) : Bool := !assigned cfg .letters c && !assigned cfg .figures c

/-- The characters shared by the two tables: CR, LF and space (40_baudot_codec.md R123). -/
def sharedChars : List Byte := [0x0D, 0x0A, 0x20]

/-- The characters a table assigns, in code order. -/
def assignedChars (cfg : Config) (t : Shift) : List Byte := (cfg.table t).filterMap id

/-- The table invariants of 40_baudot_codec.md R125: 32 positions; (a) no character at two codes; (b) at least 26
assigned, CR, LF and space among them; (c) those three at the same code; (d) no other character in both; (e) no
character at a shift code. The two shift codes differ (R124: one switches to Letters, the other to Figures). -/
def tablesLawful (cfg : Config) : Bool :=
  [Shift.letters, Shift.figures].all (fun t =>
    (cfg.table t).length == 32 && decide (assignedChars cfg t).Nodup && decide (26 ≤ (assignedChars cfg t).length)
      && sharedChars.all (fun c => assigned cfg t c)
      && tableAt cfg t cfg.codeLtrs == none && tableAt cfg t cfg.codeFigs == none)
  && sharedChars.all (fun c => lookup cfg c .letters == lookup cfg c .figures)
  && (assignedChars cfg .letters).all (fun c => sharedChars.contains c || !(assignedChars cfg .figures).contains c)
  && cfg.codeLtrs != cfg.codeFigs

/-- What 00_scope.md R6 asks of an instantiation beside the tables: tick rates to divide by (42_dds_synth.md R172), the
DDS rate within the range whose holds fit HOLD_TICKS (R164: "up to 42949672"), a threshold of at least 1, a sine table of
256 entries, buffers whose lengths fit the widths of MSG_LEN and PLAN_LEN (10_state.md R20), a baud default that is not 0
(R23), and the two values R6 fixes: SENTINEL and MEM_START. -/
def paramsLawful (cfg : Config) : Bool :=
  decide (0 < cfg.fDds) && decide (cfg.fDds ≤ 42949672) && decide (0 < cfg.fPb) && decide (1 ≤ cfg.sentThresh)
    && cfg.sine.length == 16 && cfg.sine.all (fun row => row.length == 16)
    && decide (cfg.msgMax < 512) && decide (cfg.planMax < 8192) && cfg.defBaudC != 0
    && cfg.sentinel == 0xFF && cfg.memStart == 0 && tablesLawful cfg

end Sys2Proof.Machine
end

