-- ==== Sys2Proof/Syntax.lean ====
section
/-! DEFINITION. The units RTTY-CORE exchanges, one constructor per row of spec/opcode_table.json, in the eight formats of
spec/30_encoding.md R90. An "instruction" is a host command or one of the internal operations a command starts
(spec/INDEX.md): the rows that are no host command are the units those operations exchange (log 1). -/

namespace Sys2Proof

/-- The formats of 30_encoding.md R90. "The format of a unit is fixed by the port or bus it travels on, never by its
content" (R108); a B5 code is read in one of the two tables (20_memory.md R60: table select and code). -/
inductive Format where
  /-- The host command word, 32 bits (R91). -/
  | cmd32
  /-- The response word, 32 bits (R102). -/
  | rsp32
  /-- The status port, 8 bits (10_state.md R42). -/
  | status8
  /-- A Baudot code, 5 bits, in the table `t` (R96, R97). -/
  | b5 (t : Shift)
  /-- A framed symbol, 8 bits in transmission order (R95). -/
  | sym8
  /-- A converter frame, 16 bits (R98). -/
  | dac16
  /-- The memory command word, 32 bits (R99). -/
  | mem32
  /-- A streamed byte, 8 bits (R100). -/
  | memByte
  deriving DecidableEq, Repr

/-- One constructor per row of spec/opcode_table.json, in the table's order. -/
inductive Instr where
  /-- NOP (R232). -/
  | nop
  /-- MSGCLR: empty the message buffer (R221). -/
  | msgclr
  /-- MSGPUT c: append one character (R222). -/
  | msgput (c : BitVec 8)
  /-- SEND: send the message (R223). -/
  | send
  /-- PLAY: stream the external memory (R224). -/
  | play
  /-- SETHI f: HIGH_HZ in hertz (R225). -/
  | sethi (f : BitVec 16)
  /-- SETLO f: LOW_HZ in hertz (R226). -/
  | setlo (f : BitVec 16)
  /-- SETBAUD b: BAUD_C in centibaud (R227). -/
  | setbaud (b : BitVec 16)
  /-- RSTTONE: the three tone registers back to their defaults (R228). -/
  | rsttone
  /-- GETHI (R229). -/
  | gethi
  /-- GETLO (R230). -/
  | getlo
  /-- GETBAUD (R231). -/
  | getbaud
  /-- Reserved opcode 0xC (R233). -/
  | reservedC
  /-- Reserved opcode 0xD (R233). -/
  | reservedD
  /-- Reserved opcode 0xE (R233). -/
  | reservedE
  /-- Reserved opcode 0xF (R233). -/
  | reservedF
  /-- RSP32: the response of a GET command, value `v` (30_encoding.md R102). -/
  | rsp (v : BitVec 16)
  /-- STATUS8: PB_DONE, PB_ACTIVE, PB_EN, DDS_EN, SHIFT, ARB as `0dapeskk` (10_state.md R42). -/
  | status (d : Bool) (a : Bool) (p : Bool) (e : Bool) (sh : Bool) (k : BitVec 2)
  /-- SYM8: the framed symbol of a code `k` other than the four below (30_encoding.md R95). -/
  | sym (k : BitVec 5)
  /-- SYM8 of CODE_CR, `00001011` (41_bitstream_framer.md R143). -/
  | symCr
  /-- SYM8 of CODE_LF, `00100011` (R143). -/
  | symLf
  /-- SYM8 of CODE_LTRS, `01111111` (R144). -/
  | symLtrs
  /-- SYM8 of CODE_FIGS, `01101111` (R144). -/
  | symFigs
  /-- DAC16: one converter transaction with sample `x` (30_encoding.md R98). -/
  | dacframe (x : BitVec 8)
  /-- MEM32: the memory-link header (R99). -/
  | memcmd
  /-- MEMBYTE: one byte streamed from the memory device (R100). -/
  | membyte (b : BitVec 8)
  /-- B5 0x01 in the Letters table: character 0x45 (R121). -/
  | ltrsE
  /-- B5 0x02 in the Letters table: character 0x0A (R121). -/
  | ltrsLf
  /-- B5 0x03 in the Letters table: character 0x41 (R121). -/
  | ltrsA
  /-- B5 0x04 in the Letters table: character 0x20 (R121). -/
  | ltrsSp
  /-- B5 0x05 in the Letters table: character 0x53 (R121). -/
  | ltrsS
  /-- B5 0x06 in the Letters table: character 0x49 (R121). -/
  | ltrsI
  /-- B5 0x07 in the Letters table: character 0x55 (R121). -/
  | ltrsU
  /-- B5 0x08 in the Letters table: character 0x0D (R121). -/
  | ltrsCr
  /-- B5 0x09 in the Letters table: character 0x44 (R121). -/
  | ltrsD
  /-- B5 0x0A in the Letters table: character 0x52 (R121). -/
  | ltrsR
  /-- B5 0x0B in the Letters table: character 0x4A (R121). -/
  | ltrsJ
  /-- B5 0x0C in the Letters table: character 0x4E (R121). -/
  | ltrsN
  /-- B5 0x0D in the Letters table: character 0x46 (R121). -/
  | ltrsF
  /-- B5 0x0E in the Letters table: character 0x43 (R121). -/
  | ltrsC
  /-- B5 0x0F in the Letters table: character 0x4B (R121). -/
  | ltrsK
  /-- B5 0x10 in the Letters table: character 0x54 (R121). -/
  | ltrsT
  /-- B5 0x11 in the Letters table: character 0x5A (R121). -/
  | ltrsZ
  /-- B5 0x12 in the Letters table: character 0x4C (R121). -/
  | ltrsL
  /-- B5 0x13 in the Letters table: character 0x57 (R121). -/
  | ltrsW
  /-- B5 0x14 in the Letters table: character 0x48 (R121). -/
  | ltrsH
  /-- B5 0x15 in the Letters table: character 0x59 (R121). -/
  | ltrsY
  /-- B5 0x16 in the Letters table: character 0x50 (R121). -/
  | ltrsP
  /-- B5 0x17 in the Letters table: character 0x51 (R121). -/
  | ltrsQ
  /-- B5 0x18 in the Letters table: character 0x4F (R121). -/
  | ltrsO
  /-- B5 0x19 in the Letters table: character 0x42 (R121). -/
  | ltrsB
  /-- B5 0x1A in the Letters table: character 0x47 (R121). -/
  | ltrsG
  /-- B5 0x1C in the Letters table: character 0x4D (R121). -/
  | ltrsM
  /-- B5 0x1D in the Letters table: character 0x58 (R121). -/
  | ltrsX
  /-- B5 0x1E in the Letters table: character 0x56 (R121). -/
  | ltrsV
  /-- B5 0x01 in the Figures table: character 0x33 (R122). -/
  | figs3
  /-- B5 0x02 in the Figures table: character 0x0A (R122). -/
  | figsLf
  /-- B5 0x03 in the Figures table: character 0x2D (R122). -/
  | figsMinus
  /-- B5 0x04 in the Figures table: character 0x20 (R122). -/
  | figsSp
  /-- B5 0x05 in the Figures table: character 0x27 (R122). -/
  | figsApostrophe
  /-- B5 0x06 in the Figures table: character 0x38 (R122). -/
  | figs8
  /-- B5 0x07 in the Figures table: character 0x37 (R122). -/
  | figs7
  /-- B5 0x08 in the Figures table: character 0x0D (R122). -/
  | figsCr
  /-- B5 0x09 in the Figures table: character 0x05 (R122). -/
  | figsEnq
  /-- B5 0x0A in the Figures table: character 0x34 (R122). -/
  | figs4
  /-- B5 0x0B in the Figures table: character 0x07 (R122). -/
  | figsBel
  /-- B5 0x0C in the Figures table: character 0x2C (R122). -/
  | figsComma
  /-- B5 0x0E in the Figures table: character 0x3A (R122). -/
  | figsColon
  /-- B5 0x0F in the Figures table: character 0x28 (R122). -/
  | figsLParen
  /-- B5 0x10 in the Figures table: character 0x35 (R122). -/
  | figs5
  /-- B5 0x11 in the Figures table: character 0x2B (R122). -/
  | figsPlus
  /-- B5 0x12 in the Figures table: character 0x29 (R122). -/
  | figsRParen
  /-- B5 0x13 in the Figures table: character 0x32 (R122). -/
  | figs2
  /-- B5 0x15 in the Figures table: character 0x36 (R122). -/
  | figs6
  /-- B5 0x16 in the Figures table: character 0x30 (R122). -/
  | figs0
  /-- B5 0x17 in the Figures table: character 0x31 (R122). -/
  | figs1
  /-- B5 0x18 in the Figures table: character 0x39 (R122). -/
  | figs9
  /-- B5 0x19 in the Figures table: character 0x3F (R122). -/
  | figsQuestion
  /-- B5 0x1C in the Figures table: character 0x2E (R122). -/
  | figsPeriod
  /-- B5 0x1D in the Figures table: character 0x2F (R122). -/
  | figsSlash
  /-- B5 0x1E in the Figures table: character 0x3D (R122). -/
  | figsEquals
  /-- B5 0x1F: the shift code to Letters (40_baudot_codec.md R124). -/
  | codeLtrs
  /-- B5 0x1B: the shift code to Figures (R124). -/
  | codeFigs
  deriving DecidableEq, Repr

/-- The width of a format in bits (30_encoding.md R90). -/
def Format.width : Format → Nat
  | .cmd32 => 32
  | .rsp32 => 32
  | .status8 => 8
  | .b5 _ => 5
  | .sym8 => 8
  | .dac16 => 16
  | .mem32 => 32
  | .memByte => 8

end Sys2Proof
end

