-- ==== Sys2Proof/WellFormed.lean ====
section
/-! DEFINITION. Which terms of `Instr` stand for a unit of a block with given parameters. SYM is the row of the codes that
have no row of their own, STATUS never carries ARB = 3, and a LTRS or FIGS row stands for a character its table assigns. -/

namespace Sys2Proof

open Sys2Proof.Machine

/-- Well-formed units. `sym`: the codes of SYM.CR, SYM.LF, SYM.LTRS and SYM.FIGS (41_bitstream_framer.md R143, R144) are
rows of their own. `status`: "ARB = 3 is unreachable" (44_transport_arbiter.md R211). A LTRS or FIGS row: its character
is in its table, as it is in the default ones (40_baudot_codec.md R121, R122). -/
def Instr.wellFormed (cfg : Config) : Instr → Bool
  | .nop => true
  | .msgclr => true
  | .msgput _ => true
  | .send => true
  | .play => true
  | .sethi _ => true
  | .setlo _ => true
  | .setbaud _ => true
  | .rsttone => true
  | .gethi => true
  | .getlo => true
  | .getbaud => true
  | .reservedC => true
  | .reservedD => true
  | .reservedE => true
  | .reservedF => true
  | .rsp _ => true
  | .status _ _ _ _ _ k => k ≠ 3
  | .sym k => some k ≠ lookup cfg 0x0D .letters && some k ≠ lookup cfg 0x0A .letters && k ≠ cfg.codeLtrs && k ≠ cfg.codeFigs
  | .symCr => true
  | .symLf => true
  | .symLtrs => true
  | .symFigs => true
  | .dacframe _ => true
  | .memcmd => true
  | .membyte _ => true
  | .ltrsE => assigned cfg .letters 0x45
  | .ltrsLf => assigned cfg .letters 0x0A
  | .ltrsA => assigned cfg .letters 0x41
  | .ltrsSp => assigned cfg .letters 0x20
  | .ltrsS => assigned cfg .letters 0x53
  | .ltrsI => assigned cfg .letters 0x49
  | .ltrsU => assigned cfg .letters 0x55
  | .ltrsCr => assigned cfg .letters 0x0D
  | .ltrsD => assigned cfg .letters 0x44
  | .ltrsR => assigned cfg .letters 0x52
  | .ltrsJ => assigned cfg .letters 0x4A
  | .ltrsN => assigned cfg .letters 0x4E
  | .ltrsF => assigned cfg .letters 0x46
  | .ltrsC => assigned cfg .letters 0x43
  | .ltrsK => assigned cfg .letters 0x4B
  | .ltrsT => assigned cfg .letters 0x54
  | .ltrsZ => assigned cfg .letters 0x5A
  | .ltrsL => assigned cfg .letters 0x4C
  | .ltrsW => assigned cfg .letters 0x57
  | .ltrsH => assigned cfg .letters 0x48
  | .ltrsY => assigned cfg .letters 0x59
  | .ltrsP => assigned cfg .letters 0x50
  | .ltrsQ => assigned cfg .letters 0x51
  | .ltrsO => assigned cfg .letters 0x4F
  | .ltrsB => assigned cfg .letters 0x42
  | .ltrsG => assigned cfg .letters 0x47
  | .ltrsM => assigned cfg .letters 0x4D
  | .ltrsX => assigned cfg .letters 0x58
  | .ltrsV => assigned cfg .letters 0x56
  | .figs3 => assigned cfg .figures 0x33
  | .figsLf => assigned cfg .figures 0x0A
  | .figsMinus => assigned cfg .figures 0x2D
  | .figsSp => assigned cfg .figures 0x20
  | .figsApostrophe => assigned cfg .figures 0x27
  | .figs8 => assigned cfg .figures 0x38
  | .figs7 => assigned cfg .figures 0x37
  | .figsCr => assigned cfg .figures 0x0D
  | .figsEnq => assigned cfg .figures 0x05
  | .figs4 => assigned cfg .figures 0x34
  | .figsBel => assigned cfg .figures 0x07
  | .figsComma => assigned cfg .figures 0x2C
  | .figsColon => assigned cfg .figures 0x3A
  | .figsLParen => assigned cfg .figures 0x28
  | .figs5 => assigned cfg .figures 0x35
  | .figsPlus => assigned cfg .figures 0x2B
  | .figsRParen => assigned cfg .figures 0x29
  | .figs2 => assigned cfg .figures 0x32
  | .figs6 => assigned cfg .figures 0x36
  | .figs0 => assigned cfg .figures 0x30
  | .figs1 => assigned cfg .figures 0x31
  | .figs9 => assigned cfg .figures 0x39
  | .figsQuestion => assigned cfg .figures 0x3F
  | .figsPeriod => assigned cfg .figures 0x2E
  | .figsSlash => assigned cfg .figures 0x2F
  | .figsEquals => assigned cfg .figures 0x3D
  | .codeLtrs => true
  | .codeFigs => true

end Sys2Proof
end

