-- ==== Sys2Proof/Machine/Operands.lean ====
section
/-! DEFINITION. The operand forms of spec/30_encoding.md R92: "`arg` is an unsigned 16-bit value taken from bits 15:0
unchanged; nothing is sign-extended, scaled or shifted". -/

namespace Sys2Proof.Machine

/-- `arg`, bits 15:0 of a command word (R91, R92): the operand of SETHI, SETLO and SETBAUD. -/
def argOf (w : BitVec 32) : BitVec 16 := w.extractLsb' 0 16

/-- `arg[7:0]`, the character of MSGPUT; `arg[15:8]` is ignored (R92). -/
def argByte (w : BitVec 32) : BitVec 8 := w.extractLsb' 0 8

/-- `zext_32(register)`, the result of a GET command (R92, R102). -/
def zext32 (v : BitVec 16) : BitVec 32 := v.setWidth 32

end Sys2Proof.Machine
end

