-- ==== Sys2Proof/Decode.lean ====
section
/-! DEFINITION. The decoder, total on every word of every format and rejecting by name, and after it the encoder, both
from the tables of spec/30_encoding.md; both take the parameters of the block (00_scope.md R6). At the end the host's
`decodeTableWord`. -/

namespace Sys2Proof

open Sys2Proof.Machine

/-- Why a unit is no word of its format. None arises for CMD32: the block is total on all 2^32 words
(30_encoding.md R94, 45_host_commands.md R220). -/
inductive DecodeError where
  /-- A bit above the format's width is set. -/
  | tooWide
  /-- RSP32: bits 31:16 are not zero (R102). -/
  | rspUpperHalf
  /-- STATUS8: bit 7 is not zero (10_state.md R42). -/
  | statusTopBit
  /-- STATUS8: ARB = 3 (44_transport_arbiter.md R211). -/
  | statusArb
  /-- B5: the code is assigned to no character of the table (40_baudot_codec.md R121, R122). -/
  | codeUnassigned
  /-- B5: the code's character has no row in spec/opcode_table.json, whose rows are those of the default tables (log 9). -/
  | codeNoRow
  /-- SYM8: the start bit is not 0 (30_encoding.md R95). -/
  | symStart
  /-- SYM8: the stop bits are not 11 (R95). -/
  | symStop
  /-- DAC16: bits 15:12 are not DAC_CFG (R98). -/
  | dacConfig
  /-- DAC16: bits 3:0 are not zero (R98). -/
  | dacPadding
  /-- MEM32: the word is not `{MEM_OPCODE, MEM_START}` (R99). -/
  | memHeader
  deriving DecidableEq, Repr

/-- MEMCMD = {MEM_OPCODE, MEM_START} (30_encoding.md R99). -/
def memHeader (cfg : Config) : BitVec 32 := cfg.memOpcode ++ cfg.memStart

/-- CMD32 (30_encoding.md R91, R93): the opcode is bits 31:28, the operand bits 15:0, bits 27:16 are ignored, and so is
the operand of a command that takes none (R92, R94). The last arm is opcode 0xF. -/
def decodeCmd (w : BitVec 32) : Instr :=
  match (w.extractLsb' 28 4).toNat with
  | 0x0 => .nop
  | 0x1 => .msgclr
  | 0x2 => .msgput (Machine.argByte w)
  | 0x3 => .send
  | 0x4 => .play
  | 0x5 => .sethi (Machine.argOf w)
  | 0x6 => .setlo (Machine.argOf w)
  | 0x7 => .setbaud (Machine.argOf w)
  | 0x8 => .rsttone
  | 0x9 => .gethi
  | 0xA => .getlo
  | 0xB => .getbaud
  | 0xC => .reservedC
  | 0xD => .reservedD
  | 0xE => .reservedE
  | _ => .reservedF

/-- The rows of the Letters table, each with its character (40_baudot_codec.md R121). -/
def letterRows : List (Byte × Instr) := [
    (0x45, .ltrsE), (0x0A, .ltrsLf), (0x41, .ltrsA), (0x20, .ltrsSp), (0x53, .ltrsS), (0x49, .ltrsI),
    (0x55, .ltrsU), (0x0D, .ltrsCr), (0x44, .ltrsD), (0x52, .ltrsR), (0x4A, .ltrsJ), (0x4E, .ltrsN),
    (0x46, .ltrsF), (0x43, .ltrsC), (0x4B, .ltrsK), (0x54, .ltrsT), (0x5A, .ltrsZ), (0x4C, .ltrsL),
    (0x57, .ltrsW), (0x48, .ltrsH), (0x59, .ltrsY), (0x50, .ltrsP), (0x51, .ltrsQ), (0x4F, .ltrsO),
    (0x42, .ltrsB), (0x47, .ltrsG), (0x4D, .ltrsM), (0x58, .ltrsX), (0x56, .ltrsV)]

/-- The rows of the Figures table, each with its character (R122). -/
def figureRows : List (Byte × Instr) := [
    (0x33, .figs3), (0x0A, .figsLf), (0x2D, .figsMinus), (0x20, .figsSp), (0x27, .figsApostrophe), (0x38, .figs8),
    (0x37, .figs7), (0x0D, .figsCr), (0x05, .figsEnq), (0x34, .figs4), (0x07, .figsBel), (0x2C, .figsComma),
    (0x3A, .figsColon), (0x28, .figsLParen), (0x35, .figs5), (0x2B, .figsPlus), (0x29, .figsRParen), (0x32, .figs2),
    (0x36, .figs6), (0x30, .figs0), (0x31, .figs1), (0x39, .figs9), (0x3F, .figsQuestion), (0x2E, .figsPeriod),
    (0x2F, .figsSlash), (0x3D, .figsEquals)]

/-- The rows of the table selected by `t`. -/
def codeRows : Shift → List (Byte × Instr)
  | .letters => letterRows
  | .figures => figureRows

/-- The row of a character in the table of `t`. -/
def entryRow (t : Shift) (c : Byte) : Option Instr := ((codeRows t).find? (fun p => p.1 == c)).map Prod.snd

/-- B5 (30_encoding.md R96, R97): the same code names one character in Letters and another in Figures; the two shift codes
mean the same in both (40_baudot_codec.md R124). -/
def decodeCode (cfg : Config) (t : Shift) (k : Code) : Except DecodeError Instr :=
  if k = cfg.codeLtrs then .ok .codeLtrs
  else if k = cfg.codeFigs then .ok .codeFigs
  else match tableAt cfg t k with
    | none => .error .codeUnassigned
    | some c => match entryRow t c with
      | none => .error .codeNoRow
      | some i => .ok i

/-- The code of a framed symbol's five data bits; the word's bit 7 is sent first, so bit 6 is `k[0]` and bit 2 `k[4]`
(30_encoding.md R95, 20_memory.md R70). -/
def symCode (w : BitVec 32) : Code :=
  w.extractLsb' 2 1 ++ w.extractLsb' 3 1 ++ w.extractLsb' 4 1 ++ w.extractLsb' 5 1 ++ w.extractLsb' 6 1

/-- The row of a framed symbol: the four fixed symbols have rows of their own (41_bitstream_framer.md R143, R144). -/
def symRow (cfg : Config) (k : Code) : Instr :=
  if some k = lookup cfg 0x0D .letters then .symCr
  else if some k = lookup cfg 0x0A .letters then .symLf
  else if k = cfg.codeLtrs then .symLtrs
  else if k = cfg.codeFigs then .symFigs
  else .sym k

/-- SYM8: well formed exactly when the first bit sent is 0 and the last two are 1 (30_encoding.md R95). -/
def decodeSym (cfg : Config) (w : BitVec 32) : Except DecodeError Instr :=
  if w.getLsbD 7 then .error .symStart
  else if w.extractLsb' 0 2 ≠ 3 then .error .symStop
  else .ok (symRow cfg (symCode w))

/-- STATUS8, `0dapeskk` (10_state.md R42). -/
def decodeStatus (w : BitVec 32) : Except DecodeError Instr :=
  if w.getLsbD 7 then .error .statusTopBit
  else if w.extractLsb' 0 2 = 3 then .error .statusArb
  else .ok (.status (w.getLsbD 6) (w.getLsbD 5) (w.getLsbD 4) (w.getLsbD 3) (w.getLsbD 2) (w.extractLsb' 0 2))

/-- DAC16, `ccccssssssss0000` (30_encoding.md R98). -/
def decodeDac (cfg : Config) (w : BitVec 32) : Except DecodeError Instr :=
  if w.extractLsb' 12 4 ≠ cfg.dacCfg then .error .dacConfig
  else if w.extractLsb' 0 4 ≠ 0 then .error .dacPadding
  else .ok (.dacframe (w.extractLsb' 4 8))

/-- The decoder of a block with parameters `cfg`: a unit `w` of format `f`. -/
def decode (cfg : Config) (f : Format) (w : BitVec 32) : Except DecodeError Instr :=
  if 2 ^ f.width ≤ w.toNat then .error .tooWide
  else match f with
    | .cmd32 => .ok (decodeCmd w)
    | .rsp32 => if w.extractLsb' 16 16 ≠ 0 then .error .rspUpperHalf else .ok (.rsp (w.extractLsb' 0 16))
    | .status8 => decodeStatus w
    | .b5 t => decodeCode cfg t (w.extractLsb' 0 5)
    | .sym8 => decodeSym cfg w
    | .dac16 => decodeDac cfg w
    | .mem32 => if w = memHeader cfg then .ok .memcmd else .error .memHeader
    | .memByte => .ok (.membyte (w.extractLsb' 0 8))

/-! The encoder, from the same tables. -/

/-- A CMD32 word: opcode, reserved bits written 0, operand (30_encoding.md R91). -/
def cmdWord (op : BitVec 4) (arg : BitVec 16) : BitVec 32 := op ++ (0 : BitVec 12) ++ arg

/-- A STATUS8 word, `{0, PB_DONE, PB_ACTIVE, PB_EN, DDS_EN, SHIFT, ARB}` (10_state.md R42). -/
def statusByte (d a p e sh : Bool) (k : BitVec 2) : Byte :=
  BitVec.ofBool false ++ BitVec.ofBool d ++ BitVec.ofBool a ++ BitVec.ofBool p ++ BitVec.ofBool e ++ BitVec.ofBool sh ++ k

/-- The status byte as a unit word. -/
def statusWord (d a p e sh : Bool) (k : BitVec 2) : BitVec 32 := (statusByte d a p e sh k).setWidth 32

/-- A SYM8 word, first bit sent in bit 7: `0 k[0] k[1] k[2] k[3] k[4] 1 1` (30_encoding.md R95). -/
def symWord (k : Code) : BitVec 32 :=
  ((0 : BitVec 1) ++ k.extractLsb' 0 1 ++ k.extractLsb' 1 1 ++ k.extractLsb' 2 1 ++ k.extractLsb' 3 1
    ++ k.extractLsb' 4 1 ++ (3 : BitVec 2)).setWidth 32

/-- DACFRAME(s) = {DAC_CFG, s, 0b0000} (30_encoding.md R98). -/
def dacFrame (cfg : Config) (x : Byte) : BitVec 16 := cfg.dacCfg ++ x ++ (0 : BitVec 4)

/-- The code of the character `c` in the table of `t`; a row whose table lacks its character is no unit
(`Instr.wellFormed`), and is given code 0x00, which no table assigns by default. -/
def entryCode (cfg : Config) (t : Shift) (c : Byte) : Code := (lookup cfg c t).getD 0

/-- A B5 word. -/
def entryWord (cfg : Config) (t : Shift) (c : Byte) : BitVec 32 := (entryCode cfg t c).setWidth 32

/-- The format a unit travels in (spec/opcode_table.json, "format"). The shift codes stand in both tables. -/
def Instr.format : Instr → Format
  | .nop => .cmd32
  | .msgclr => .cmd32
  | .msgput _ => .cmd32
  | .send => .cmd32
  | .play => .cmd32
  | .sethi _ => .cmd32
  | .setlo _ => .cmd32
  | .setbaud _ => .cmd32
  | .rsttone => .cmd32
  | .gethi => .cmd32
  | .getlo => .cmd32
  | .getbaud => .cmd32
  | .reservedC => .cmd32
  | .reservedD => .cmd32
  | .reservedE => .cmd32
  | .reservedF => .cmd32
  | .rsp _ => .rsp32
  | .status _ _ _ _ _ _ => .status8
  | .sym _ => .sym8
  | .symCr => .sym8
  | .symLf => .sym8
  | .symLtrs => .sym8
  | .symFigs => .sym8
  | .dacframe _ => .dac16
  | .memcmd => .mem32
  | .membyte _ => .memByte
  | .ltrsE => .b5 .letters
  | .ltrsLf => .b5 .letters
  | .ltrsA => .b5 .letters
  | .ltrsSp => .b5 .letters
  | .ltrsS => .b5 .letters
  | .ltrsI => .b5 .letters
  | .ltrsU => .b5 .letters
  | .ltrsCr => .b5 .letters
  | .ltrsD => .b5 .letters
  | .ltrsR => .b5 .letters
  | .ltrsJ => .b5 .letters
  | .ltrsN => .b5 .letters
  | .ltrsF => .b5 .letters
  | .ltrsC => .b5 .letters
  | .ltrsK => .b5 .letters
  | .ltrsT => .b5 .letters
  | .ltrsZ => .b5 .letters
  | .ltrsL => .b5 .letters
  | .ltrsW => .b5 .letters
  | .ltrsH => .b5 .letters
  | .ltrsY => .b5 .letters
  | .ltrsP => .b5 .letters
  | .ltrsQ => .b5 .letters
  | .ltrsO => .b5 .letters
  | .ltrsB => .b5 .letters
  | .ltrsG => .b5 .letters
  | .ltrsM => .b5 .letters
  | .ltrsX => .b5 .letters
  | .ltrsV => .b5 .letters
  | .figs3 => .b5 .figures
  | .figsLf => .b5 .figures
  | .figsMinus => .b5 .figures
  | .figsSp => .b5 .figures
  | .figsApostrophe => .b5 .figures
  | .figs8 => .b5 .figures
  | .figs7 => .b5 .figures
  | .figsCr => .b5 .figures
  | .figsEnq => .b5 .figures
  | .figs4 => .b5 .figures
  | .figsBel => .b5 .figures
  | .figsComma => .b5 .figures
  | .figsColon => .b5 .figures
  | .figsLParen => .b5 .figures
  | .figs5 => .b5 .figures
  | .figsPlus => .b5 .figures
  | .figsRParen => .b5 .figures
  | .figs2 => .b5 .figures
  | .figs6 => .b5 .figures
  | .figs0 => .b5 .figures
  | .figs1 => .b5 .figures
  | .figs9 => .b5 .figures
  | .figsQuestion => .b5 .figures
  | .figsPeriod => .b5 .figures
  | .figsSlash => .b5 .figures
  | .figsEquals => .b5 .figures
  | .codeLtrs => .b5 .letters
  | .codeFigs => .b5 .letters

/-- The word of a unit of a block with parameters `cfg`, in the bit numbering of spec/opcode_table.json; an assembler
writes ignored bits 0 (R91, R103). -/
def encode (cfg : Config) : Instr → BitVec 32
  | .nop => 0x00000000
  | .msgclr => 0x10000000
  | .msgput c => cmdWord 0x2 (c.setWidth 16)
  | .send => 0x30000000
  | .play => 0x40000000
  | .sethi f => cmdWord 0x5 f
  | .setlo f => cmdWord 0x6 f
  | .setbaud b => cmdWord 0x7 b
  | .rsttone => 0x80000000
  | .gethi => 0x90000000
  | .getlo => 0xA0000000
  | .getbaud => 0xB0000000
  | .reservedC => 0xC0000000
  | .reservedD => 0xD0000000
  | .reservedE => 0xE0000000
  | .reservedF => 0xF0000000
  | .rsp v => v.setWidth 32
  | .status d a p e sh k => statusWord d a p e sh k
  | .sym k => symWord k
  | .symCr => symWord (entryCode cfg .letters 0x0D)
  | .symLf => symWord (entryCode cfg .letters 0x0A)
  | .symLtrs => symWord cfg.codeLtrs
  | .symFigs => symWord cfg.codeFigs
  | .dacframe x => (dacFrame cfg x).setWidth 32
  | .memcmd => memHeader cfg
  | .membyte b => b.setWidth 32
  | .ltrsE => entryWord cfg .letters 0x45
  | .ltrsLf => entryWord cfg .letters 0x0A
  | .ltrsA => entryWord cfg .letters 0x41
  | .ltrsSp => entryWord cfg .letters 0x20
  | .ltrsS => entryWord cfg .letters 0x53
  | .ltrsI => entryWord cfg .letters 0x49
  | .ltrsU => entryWord cfg .letters 0x55
  | .ltrsCr => entryWord cfg .letters 0x0D
  | .ltrsD => entryWord cfg .letters 0x44
  | .ltrsR => entryWord cfg .letters 0x52
  | .ltrsJ => entryWord cfg .letters 0x4A
  | .ltrsN => entryWord cfg .letters 0x4E
  | .ltrsF => entryWord cfg .letters 0x46
  | .ltrsC => entryWord cfg .letters 0x43
  | .ltrsK => entryWord cfg .letters 0x4B
  | .ltrsT => entryWord cfg .letters 0x54
  | .ltrsZ => entryWord cfg .letters 0x5A
  | .ltrsL => entryWord cfg .letters 0x4C
  | .ltrsW => entryWord cfg .letters 0x57
  | .ltrsH => entryWord cfg .letters 0x48
  | .ltrsY => entryWord cfg .letters 0x59
  | .ltrsP => entryWord cfg .letters 0x50
  | .ltrsQ => entryWord cfg .letters 0x51
  | .ltrsO => entryWord cfg .letters 0x4F
  | .ltrsB => entryWord cfg .letters 0x42
  | .ltrsG => entryWord cfg .letters 0x47
  | .ltrsM => entryWord cfg .letters 0x4D
  | .ltrsX => entryWord cfg .letters 0x58
  | .ltrsV => entryWord cfg .letters 0x56
  | .figs3 => entryWord cfg .figures 0x33
  | .figsLf => entryWord cfg .figures 0x0A
  | .figsMinus => entryWord cfg .figures 0x2D
  | .figsSp => entryWord cfg .figures 0x20
  | .figsApostrophe => entryWord cfg .figures 0x27
  | .figs8 => entryWord cfg .figures 0x38
  | .figs7 => entryWord cfg .figures 0x37
  | .figsCr => entryWord cfg .figures 0x0D
  | .figsEnq => entryWord cfg .figures 0x05
  | .figs4 => entryWord cfg .figures 0x34
  | .figsBel => entryWord cfg .figures 0x07
  | .figsComma => entryWord cfg .figures 0x2C
  | .figsColon => entryWord cfg .figures 0x3A
  | .figsLParen => entryWord cfg .figures 0x28
  | .figs5 => entryWord cfg .figures 0x35
  | .figsPlus => entryWord cfg .figures 0x2B
  | .figsRParen => entryWord cfg .figures 0x29
  | .figs2 => entryWord cfg .figures 0x32
  | .figs6 => entryWord cfg .figures 0x36
  | .figs0 => entryWord cfg .figures 0x30
  | .figs1 => entryWord cfg .figures 0x31
  | .figs9 => entryWord cfg .figures 0x39
  | .figsQuestion => entryWord cfg .figures 0x3F
  | .figsPeriod => entryWord cfg .figures 0x2E
  | .figsSlash => entryWord cfg .figures 0x2F
  | .figsEquals => entryWord cfg .figures 0x3D
  | .codeLtrs => cfg.codeLtrs.setWidth 32
  | .codeFigs => cfg.codeFigs.setWidth 32

/-! The host's reading of a bare table word. -/

/-- The format taken for a word of the opcode table whose port is not known (R108 gives every unit its format by its
port; the table's rows share words across formats). 32 bits: the command port, but for the one word of MEMCMD. 16 bits:
the converter. 8 bits: a B5 code 0x01 to 0x1F in the Letters table, then a framed symbol, then STATUS, then MEMBYTE.
Log 4. -/
def tableFormat (cfg : Config) (nbits w : Nat) : Option Format :=
  if 2 ^ nbits ≤ w then none
  else if nbits = 32 then some (if w = (memHeader cfg).toNat then .mem32 else .cmd32)
  else if nbits = 16 then some .dac16
  else if nbits = 8 ∨ nbits = 5 then
    some (if 0 < w ∧ w < 32 then .b5 .letters
      else if w % 4 = 3 ∧ w < 128 then .sym8
      else if w < 128 then .status8
      else .memByte)
  else none

/-- The instruction the decoder of a block with parameters `cfg` reads from a bare table word. -/
def decodeTableWordOf (cfg : Config) (nbits w : Nat) : Option Instr :=
  match tableFormat cfg nbits w with
  | none => none
  | some f => (decode cfg f (BitVec.ofNat 32 w)).toOption

/-- The instruction the decoder reads from a bare table word, with the default parameters (00_scope.md R6), which are
those of spec/opcode_table.json. -/
def decodeTableWord (nbits w : Nat) : Option Instr := decodeTableWordOf Config.std nbits w

end Sys2Proof
end

