-- ==== Sys2Proof/Machine/State.lean ====
section
/-! DEFINITION. The state of RTTY-CORE: every register and buffer of spec/10_state.md R20, the environment state of R43, the
parameters of 00_scope.md R6, and the model's own fields (`bench`, `trace`, `rspPort`, `stimuli`, `cutWave`, `cuts`), with
the reset values of R45. -/

namespace Sys2Proof.Machine

/-- The Transport Arbiter state ARB (10_state.md R36). The encoding's value 3 "is never reached", so the type has three
values (44_transport_arbiter.md R211; log 12). -/
inductive Arb where
  | idle
  | rttyActive
  | playbackActive
  deriving DecidableEq, Repr

/-- An observable event of 00_scope.md R11. -/
inductive Event where
  /-- `Dac(f)`: one frame written to the converter. -/
  | dac (f : BitVec 16)
  /-- `MemSel`: the memory chip-select made active. -/
  | memSel
  /-- `MemCmd(w)`: the command word shifted out. -/
  | memCmd (w : BitVec 32)
  /-- `MemRd(b)`: one byte clocked in, with the value the device answered. -/
  | memRd (b : BitVec 8)
  /-- `MemDesel`: the chip-select released. -/
  | memDesel
  /-- `Rsp(v)`: a response to a GET command. -/
  | rsp (v : BitVec 32)
  deriving DecidableEq, Repr

/-- The converter bus lines (30_encoding.md R106, R107). -/
structure DacLines where
  csN : Bool
  sck : Bool
  sdi : Bool
  deriving DecidableEq, Repr

/-- The memory link lines driven by the block (30_encoding.md R105, R107). -/
structure MemLines where
  csN : Bool
  sck : Bool
  mosi : Bool
  deriving DecidableEq, Repr

/-- A change of the lines of one of the two buses. -/
inductive BusLines where
  | dac (l : DacLines)
  | mem (l : MemLines)
  deriving DecidableEq, Repr

/-- What the outside does in a coming step (log 2). -/
inductive Stimulus where
  /-- The outside does nothing: the block takes the step its own agents have (R10). -/
  | quiet
  /-- `rst = 1` between two steps (70_reset_and_hazards.md R280). -/
  | rst
  /-- `rst = 1` within the step the block takes next, when `n` line changes of that step's bus transactions are out: the
  transaction under way then is cut (R280, R282, 93_implementation_defined.md U20; log 22). -/
  | cut (n : Nat)
  /-- A unit `w` is held on the port of format `f` until it is taken. With `cmd32` this is the host holding
  `cmd_valid = 1` with `cmd_word = w` (45_host_commands.md R220). The other formats are a bench's (log 1). -/
  | unit (f : Format) (w : BitVec 32)
  deriving DecidableEq, Repr

/-- What the Bitstream Generator works on: a plan, its length and the shift state (41_bitstream_framer.md R147). The block's
own are the registers PLAN, PLAN_LEN and SHIFT. -/
structure Framer where
  plan : List (Nat × Bool)
  planLen : BitVec 13
  shift : Shift
  deriving DecidableEq, Repr

/-- A framer with an empty plan in the Letters state. -/
def Framer.empty : Framer := ⟨[], 0, .letters⟩

/-- The bench: a framer, output buses and a memory device apart from the block's own, on which the units that the block
makes only inside a larger step (framed symbols, codes, converter frames, the memory header, responses) are run one at a
time. No step of the block reads or writes it (log 1). -/
structure Bench where
  /-- The plan and the shift state of the bench's framer. -/
  framer : Framer
  /-- The events on the bench's buses, newest first. -/
  events : List Event
  /-- The stream position of the bench's memory device. -/
  xpos : Nat
  deriving DecidableEq, Repr

/-- The state of the block (10_state.md R20), of its environment (R43) and of the model, beside the parameters the block is
built with: "not state" (R44), written by no step. -/
structure State where
  /-- The parameters of 00_scope.md R6 (log 9). -/
  cfg : Config
  /-- HIGH_HZ: the frequency of the tone of bit value 1 (R21). -/
  highHz : BitVec 16
  /-- LOW_HZ: the frequency of the tone of bit value 0 (R22). -/
  lowHz : BitVec 16
  /-- BAUD_C: the baud rate in centibaud (R23). -/
  baudC : BitVec 16
  /-- MSG: the written cells of the message buffer (R24, R49). -/
  msg : List Host.Cell
  /-- MSG_LEN (R24). -/
  msgLen : BitVec 9
  /-- SHIFT (R25). -/
  shift : Shift
  /-- PLAN: the written cells of the plan (R26, R49). -/
  plan : List (Nat × Bool)
  /-- PLAN_LEN (R26). -/
  planLen : BitVec 13
  /-- PLAN_POS, the program counter (R27). -/
  planPos : BitVec 13
  /-- HOLD_CNT (R28). -/
  holdCnt : BitVec 32
  /-- INC_HIGH (R29). -/
  incHigh : BitVec 32
  /-- INC_LOW (R29). -/
  incLow : BitVec 32
  /-- HOLD_TICKS (R29). -/
  holdTicks : BitVec 32
  /-- ACC, the phase accumulator (R30). -/
  acc : BitVec 32
  /-- INC, the phase increment (R31). -/
  inc : BitVec 32
  /-- CUR_SAMPLE (R32). -/
  curSample : BitVec 8
  /-- SENT_CNT: "any width that holds SENT_THRESH" (R33). -/
  sentCnt : Nat
  /-- PB_ACTIVE (R34). -/
  pbActive : Bool
  /-- PB_DONE (R35). -/
  pbDone : Bool
  /-- ARB (R36). -/
  arb : Arb
  /-- DDS_EN (R37). -/
  ddsEn : Bool
  /-- PB_EN (R38). -/
  pbEn : Bool
  /-- SAVED_DDS_EN (R39). -/
  savedDdsEn : Bool
  /-- MEM_CS: 1 while the memory chip-select is held active (R40). -/
  memCs : Bool
  /-- XPOS, the device's stream position (R43): environment. -/
  xpos : Nat
  /-- XMEM: the bytes of the external memory the run supplies cell by cell (R43; 20_memory.md R65): environment. -/
  xmem : List Host.Cell
  /-- XMEM at every index with no cell: these bytes repeated for ever, or any value if there are none (log 5). -/
  xmemTail : List Byte
  /-- The bench's own framer, buses and device: the model's own (log 1). -/
  bench : Bench
  /-- The events emitted so far (00_scope.md R11), newest first: the model's own (log 10). -/
  trace : List Event
  /-- The response port in the step just taken: `none` is `rsp_valid = 0` (30_encoding.md R102; log 11). -/
  rspPort : Option (BitVec 32)
  /-- What the outside does next, in order: the model's own (log 2). -/
  stimuli : List Stimulus
  /-- The line changes of the transaction that the last reset cut, oldest first; none if it cut none (R282): the model's
  own (log 22). -/
  cutWave : List BusLines
  /-- How many memory transactions resets have cut: selects the free value of XPOS after the next one (log 22). -/
  cuts : Nat
  deriving DecidableEq, Repr

/-- The reset state of a block with parameters `cfg` (10_state.md R45, 70_reset_and_hazards.md R281). XPOS is "unspecified":
0 is the model's choice (log 6). The buffers have no written cell and the run supplies no byte yet. -/
def State.resetWith (cfg : Config) : State where
  cfg := cfg
  highHz := cfg.defHighHz
  lowHz := cfg.defLowHz
  baudC := cfg.defBaudC
  msg := []
  msgLen := 0
  shift := .letters
  plan := []
  planLen := 0
  planPos := 0
  holdCnt := 0
  incHigh := 0
  incLow := 0
  holdTicks := 0
  acc := 0
  inc := 0
  curSample := 0
  sentCnt := 0
  pbActive := false
  pbDone := false
  arb := .idle
  ddsEn := true
  pbEn := false
  savedDdsEn := false
  memCs := false
  xpos := 0
  xmem := []
  xmemTail := []
  bench := ⟨.empty, [], 0⟩
  trace := []
  rspPort := none
  stimuli := []
  cutWave := []
  cuts := 0

/-- The reset state of a block with the default parameters. -/
def State.reset : State := State.resetWith Config.std

/-- Why the machine stops. "Nothing traps" (60_exceptions.md R250): no command and no tick raises a fault. -/
inductive Fault where
  /-- Both periodic sources are enabled: "such a state is to be treated as a fault, not given an order" (60_exceptions.md
  R257). Raised by `step` only. Safe: no run from reset reaches it, and the spec gives it no order of ticks (log 13). -/
  | bothSourcesEnabled
  deriving DecidableEq, Repr

/-- Why a step has no meaning. -/
inductive Refusal where
  /-- An instruction that has no meaning yet: raised by an arm of `exec` only. Safe. -/
  | notModelled (mnemonic : String)
  /-- A bench put a word on a bus of fixed patterns that is no unit of its format: raised by `step`, never for a host
  command word, since the block is total on those (30_encoding.md R94). Safe: such a word has no meaning in the spec. -/
  | undecodable (why : DecodeError)
  deriving DecidableEq, Repr

end Sys2Proof.Machine
end

