-- ==== Sys2Proof/Machine/Ops.lean ====
section
/-! DEFINITION. The named operations over the indexed spaces and the buses (spec/20_memory.md, 30_encoding.md), the bench,
and reset.
There is no operation that takes an exception: "Nothing traps. No condition in RTTY-CORE saves state, changes a mode,
redirects the sequencer or reports a cause" (60_exceptions.md R250), and a callback has nothing to restore (R258, R259). -/

namespace Sys2Proof.Machine

/-! Indexed spaces: (index, cell) pairs with strictly rising indices; an unlisted index holds no value. -/

/-- The cell at index `a`, `none` where nothing has been written. -/
def Memory.read {α : Type} : List (Nat × α) → Nat → Option α
  | [], _ => none
  | c :: m, a => if c.1 = a then some c.2 else Memory.read m a

/-- Write one cell, keeping the indices strictly rising. -/
def Memory.write {α : Type} : List (Nat × α) → Nat → α → List (Nat × α)
  | [], a, v => [(a, v)]
  | c :: m, a, v =>
    if a < c.1 then (a, v) :: c :: m
    else if a = c.1 then (a, v) :: m
    else c :: Memory.write m a v

/-- Write consecutive cells from index `a` upward. -/
def Memory.writeAll {α : Type} (m : List (Nat × α)) (a : Nat) : List α → List (Nat × α)
  | [] => m
  | v :: vs => Memory.writeAll (Memory.write m a v) (a + 1) vs

/-- The canonical form: strictly rising indices. An unlisted index reads as no value, so no entry equals it. -/
abbrev Memory.wf {α : Type} (m : List (Nat × α)) : Prop := m.Pairwise (fun c d => c.1 < d.1)

/-- `MSG[i]`; a cell nothing has written holds any value (10_state.md R49; log 7). -/
def State.msgChar (s : State) (i : Nat) : Byte := (Memory.read s.msg i).getD (Config.msgUnwritten i)

/-- The block's own plan and shift state. -/
def State.framer (s : State) : Framer := ⟨s.plan, s.planLen, s.shift⟩

/-- The block with another plan and shift state. -/
def State.withFramer (s : State) (f : Framer) : State := { s with plan := f.plan, planLen := f.planLen, shift := f.shift }

/-- A plan bit; a cell nothing has written holds any value (10_state.md R49; log 7). -/
def Framer.bit (f : Framer) (i : Nat) : Bool := (Memory.read f.plan i).getD (Config.planUnwritten i)

/-- The bits of a plan in transmission order (20_memory.md R62). -/
def Framer.bits (f : Framer) : List Bool := (List.range f.planLen.toNat).map f.bit

/-- `PLAN[i]`. -/
def State.planBit (s : State) (i : Nat) : Bool := s.framer.bit i

/-- XMEM at an index with no cell: the repeated bytes, or any value (93_implementation_defined.md U14; log 5). -/
def xmemDefault (tail : List Byte) (i : Nat) : Byte :=
  match tail with
  | [] => Config.xmemRest i
  | b :: bs => (b :: bs).getD (i % (b :: bs).length) b

/-- `XMEM(i)`, the total function the state describes (20_memory.md R65). -/
def State.xmemByte (s : State) (i : Nat) : Byte := (Memory.read s.xmem i).getD (xmemDefault s.xmemTail i)

/-- The message, `MSG[0] .. MSG[MSG_LEN-1]` in ascending order (20_memory.md R61). -/
def State.message (s : State) : List Byte := (List.range s.msgLen.toNat).map s.msgChar

/-- The plan, `PLAN[0] .. PLAN[PLAN_LEN-1]` in transmission order (20_memory.md R62). -/
def State.planBits (s : State) : List Bool := s.framer.bits

/-! Events and bus transactions. -/

/-- `emit E` appends `E` to the trace (00_scope.md R9); the trace is kept newest first. -/
def emit (e : Event) (s : State) : State := { s with trace := e :: s.trace }

/-- `DacWrite(f)` emits `Dac(f)`; the converter is a sink (30_encoding.md R98, 20_memory.md R66). -/
def dacWrite (f : BitVec 16) (s : State) : State := emit (.dac f) s

/-- `MemLinkSelect()`, with MEM_CS set (43_sample_streamer.md R180). -/
def memLinkSelect (s : State) : State := emit .memSel { s with memCs := true }

/-- `MemLinkCmd(w)` emits `MemCmd(w)` (30_encoding.md R99); with `w = {MEM_OPCODE, MEM_START}`, the only word the block
sends, the device sets XPOS to 0 (20_memory.md R65). -/
def memLinkCmd (w : BitVec 32) (s : State) : State := emit (.memCmd w) { s with xpos := 0 }

/-- `MemLinkReadByte()` when the device answers `b`: emits `MemRd(b)` and consumes the byte (20_memory.md R65, R73). -/
def memLinkReadByte (b : Byte) (s : State) : State := emit (.memRd b) { s with xpos := s.xpos + 1 }

/-- `MemLinkDeselect()`, with MEM_CS cleared (43_sample_streamer.md R183). -/
def memLinkDeselect (s : State) : State := emit .memDesel { s with memCs := false }

/-- A response on the response port: `rsp_valid = 1` with `v` in the step that accepts the command, and `Rsp(v)`
(30_encoding.md R102). -/
def respond (v : BitVec 32) (s : State) : State := emit (.rsp v) { s with rspPort := some v }

/-- A command acts only while ARB = Idle: it is accepted exactly then (45_host_commands.md R220,
44_transport_arbiter.md R208). Otherwise it waits and nothing changes (log 15). -/
def whenIdle (f : State → State) (s : State) : Host.Outcome State Fault Refusal :=
  .next (if s.arb = .idle then f s else s)

/-- A unit run on the bench: the bench changes and nothing of the block does (log 1). -/
def onBench (f : Bench → Bench) (s : State) : Host.Outcome State Fault Refusal :=
  .next { s with bench := f s.bench }

/-- A unit run on the bench's framer. -/
def onBenchFramer (f : Framer → Framer) : State → Host.Outcome State Fault Refusal :=
  onBench (fun b => { b with framer := f b.framer })

/-- An event on the bench's buses. -/
def Bench.emit (e : Event) (b : Bench) : Bench := { b with events := e :: b.events }

/-! Reset. -/

/-- Every register takes its reset value whatever the block was doing; the cells of MSG and PLAN become unspecified
(70_reset_and_hazards.md R281). The parameters, the environment (XPOS, XMEM), the bench, the trace and the stimuli are
outside the block and stay; a chip-select that was active is released, which the outside sees as `MemDesel` (R11, R281;
log 17). `part` is what was out of the transaction that the reset cut (R282). -/
def resetCutting (part : List BusLines) (s : State) : State :=
  let r : State :=
    { State.resetWith s.cfg with
      xpos := s.xpos, xmem := s.xmem, xmemTail := s.xmemTail, bench := s.bench, trace := s.trace, stimuli := s.stimuli,
      cutWave := part, cuts := s.cuts }
  if s.memCs then emit .memDesel r else r

/-- A `rst` between two steps: no transaction is under way. -/
def applyReset (s : State) : State := resetCutting [] s

/-- An event of a step under way has happened: what it does outside the registers, to the trace, the chip-select and the
device's position. -/
def observe (e : Event) (s : State) : State :=
  match e with
  | .dac f => dacWrite f s
  | .memSel => memLinkSelect s
  | .memCmd w => memLinkCmd w s
  | .memRd b => memLinkReadByte b s
  | .memDesel => memLinkDeselect s
  | .rsp v => emit (.rsp v) s

/-- A memory transaction has been cut: the device's position is then any value (R282: "outside the block"; log 22). -/
def losePosition (s : State) : State := { s with xpos := Config.xposAfterCut s.cuts, cuts := s.cuts + 1 }

/-- A reset within a step, whose events `done` have happened and of whose next transaction the line changes `part` are out
(R281, R282, 93_implementation_defined.md U20). -/
def resetWithin (done : List Event) (part : List BusLines) (s : State) : State :=
  let t := done.foldl (fun u e => observe e u) s
  match part with
  | .mem _ :: _ => resetCutting part (losePosition t)
  | .dac _ :: _ => resetCutting part t
  | [] => resetCutting [] t

end Sys2Proof.Machine
end

