-- ==== Sys2Proof/Machine/Flags.lean ====
section
/-! DEFINITION. The flags the host sees: STATUS and `cmd_ready` (spec/10_state.md R42, 45_host_commands.md R220). No
arithmetic of the block sets a flag (42_dds_synth.md R172); PB_ACTIVE, PB_DONE, SHIFT and the enables are registers,
written by the operations that 10_state.md R47 names. -/

namespace Sys2Proof.Machine

/-- The 2-bit encoding of ARB: 0 Idle, 1 RttyActive, 2 PlaybackActive (10_state.md R36). -/
def Arb.code : Arb → BitVec 2
  | .idle => 0
  | .rttyActive => 1
  | .playbackActive => 2

/-- The 1-bit encoding of SHIFT: 0 Letters, 1 Figures (10_state.md R25). -/
def shiftBit : Shift → Bool
  | .letters => false
  | .figures => true

/-- STATUS = {0, PB_DONE, PB_ACTIVE, PB_EN, DDS_EN, SHIFT, ARB}, composed combinationally (10_state.md R42). -/
def State.status (s : State) : Byte :=
  statusByte s.pbDone s.pbActive s.pbEn s.ddsEn (shiftBit s.shift) s.arb.code

/-- `cmd_ready = (ARB = Idle)` (44_transport_arbiter.md R208). -/
def State.cmdReady (s : State) : Bool := s.arb == .idle

end Sys2Proof.Machine
end

