-- ==== Sys2Proof/Machine/Framer.lean ====
section
/-! DEFINITION. The Bitstream Generator (spec/41_bitstream_framer.md): FRAME, the per-character rule and BUILDPLAN; and
the meanings of the framed-symbol rows of the opcode table. -/

namespace Sys2Proof.Machine

/-- FRAME(k): start bit 0, the data bits with bit 0 first, two stop bits 1 (41_bitstream_framer.md R146). -/
def frame (k : Code) : List Bool :=
  [false, k.getLsbD 0, k.getLsbD 1, k.getLsbD 2, k.getLsbD 3, k.getLsbD 4, true, true]

/-- `append(FRAME(k))`: the bits at PLAN[PLAN_LEN ..], 8 more in PLAN_LEN (R147). The plan always fits its buffer when
BUILDPLAN makes it (R148); a symbol that would pass PLAN_MAX is dropped (log 14). -/
def appendSym (cfg : Config) (k : Code) (f : Framer) : Framer :=
  if f.planLen.toNat + 8 ≤ cfg.planMax then
    { f with plan := Memory.writeAll f.plan f.planLen.toNat (frame k), planLen := f.planLen + 8 }
  else f

/-- Switch to the table of `t`: SHIFT, then the framed shift code of the new state (R144, R145). -/
def putShift (cfg : Config) (t : Shift) (f : Framer) : Framer := appendSym cfg (shiftCode cfg t) { f with shift := t }

/-- The per-character rule (R145): the current table, else the other table after a shift symbol, else nothing. -/
def putChar (cfg : Config) (c : Byte) (f : Framer) : Framer :=
  match lookup cfg c f.shift with
  | some k => appendSym cfg k f
  | none =>
    match lookup cfg c f.shift.other with
    | some k => appendSym cfg k (putShift cfg f.shift.other f)
    | none => f

/-- The initial shift state (R141, R142): EMPTY_SHIFT for the empty message, else Letters exactly when the first
character resolves in the Letters table. -/
def initialShift (cfg : Config) (message : List Byte) : Shift :=
  match message with
  | [] => cfg.emptyShift
  | c :: _ => if (lookup cfg c .letters).isSome then .letters else .figures

/-- A preamble symbol: the character's Letters code, framed "regardless of message content" (R143). -/
def putPreamble (cfg : Config) (c : Byte) (f : Framer) : Framer :=
  match lookup cfg c .letters with
  | some k => appendSym cfg k f
  | none => f

/-- BUILDPLAN (R147): PLAN_LEN to 0, the initial SHIFT, CR, LF, the initial shift symbol, then every character. -/
def buildPlan (cfg : Config) (message : List Byte) (f : Framer) : Framer :=
  let f₀ : Framer := { f with planLen := 0, shift := initialShift cfg message }
  let f₁ := appendSym cfg (shiftCode cfg f₀.shift) (putPreamble cfg 0x0A (putPreamble cfg 0x0D f₀))
  message.foldl (fun g c => putChar cfg c g) f₁

/-! The rows of framed symbols, run on the bench's framer: the block itself appends a symbol only inside BUILDPLAN, and
nothing else writes PLAN or PLAN_LEN (R151; log 1). -/

/-- SYM (30_encoding.md R95): the framed symbol of `k` appended to the bench's plan. -/
def execSym (k : BitVec 5) (s : State) : Host.Outcome State Fault Refusal := onBenchFramer (appendSym s.cfg k) s

/-- SYM.CR (R143): FRAME(CODE_CR) appended to the bench's plan, in the Letters table whatever the shift state is. -/
def execSymCr (s : State) : Host.Outcome State Fault Refusal := onBenchFramer (putPreamble s.cfg 0x0D) s

/-- SYM.LF (R143): FRAME(CODE_LF) appended to the bench's plan. -/
def execSymLf (s : State) : Host.Outcome State Fault Refusal := onBenchFramer (putPreamble s.cfg 0x0A) s

/-- SYM.LTRS (R144): FRAME(CODE_LTRS) appended to the bench's plan; the symbol itself does not write the shift state
(log 18). -/
def execSymLtrs (s : State) : Host.Outcome State Fault Refusal := onBenchFramer (appendSym s.cfg s.cfg.codeLtrs) s

/-- SYM.FIGS (R144): FRAME(CODE_FIGS) appended to the bench's plan. -/
def execSymFigs (s : State) : Host.Outcome State Fault Refusal := onBenchFramer (appendSym s.cfg s.cfg.codeFigs) s

end Sys2Proof.Machine
end

