-- ==== Sys2Proof/Machine/Codes.lean ====
section
/-! DEFINITION. The meanings of the B5 rows of the opcode table (spec/40_baudot_codec.md R121, R122, R124). A code found
by LOOKUP goes from the codec to the framer, which takes its character by the per-character rule of
41_bitstream_framer.md R145: the framed symbol of the code, after a shift symbol if the active table does not hold the
character (log 23). The rows run on the bench's framer: the block itself does this only inside BUILDPLAN (R149, R151;
log 1). -/

namespace Sys2Proof.Machine

/-- LTRS.E (R121): character 0x45, by default code 0x01 of the Letters table. -/
def execLtrsE (s : State) : Host.Outcome State Fault Refusal := onBenchFramer (putChar s.cfg 0x45) s

/-- LTRS.LF (R121): character 0x0A, by default code 0x02 of the Letters table. -/
def execLtrsLf (s : State) : Host.Outcome State Fault Refusal := onBenchFramer (putChar s.cfg 0x0A) s

/-- LTRS.A (R121): character 0x41, by default code 0x03 of the Letters table. -/
def execLtrsA (s : State) : Host.Outcome State Fault Refusal := onBenchFramer (putChar s.cfg 0x41) s

/-- LTRS.SP (R121): character 0x20, by default code 0x04 of the Letters table. -/
def execLtrsSp (s : State) : Host.Outcome State Fault Refusal := onBenchFramer (putChar s.cfg 0x20) s

/-- LTRS.S (R121): character 0x53, by default code 0x05 of the Letters table. -/
def execLtrsS (s : State) : Host.Outcome State Fault Refusal := onBenchFramer (putChar s.cfg 0x53) s

/-- LTRS.I (R121): character 0x49, by default code 0x06 of the Letters table. -/
def execLtrsI (s : State) : Host.Outcome State Fault Refusal := onBenchFramer (putChar s.cfg 0x49) s

/-- LTRS.U (R121): character 0x55, by default code 0x07 of the Letters table. -/
def execLtrsU (s : State) : Host.Outcome State Fault Refusal := onBenchFramer (putChar s.cfg 0x55) s

/-- LTRS.CR (R121): character 0x0D, by default code 0x08 of the Letters table. -/
def execLtrsCr (s : State) : Host.Outcome State Fault Refusal := onBenchFramer (putChar s.cfg 0x0D) s

/-- LTRS.D (R121): character 0x44, by default code 0x09 of the Letters table. -/
def execLtrsD (s : State) : Host.Outcome State Fault Refusal := onBenchFramer (putChar s.cfg 0x44) s

/-- LTRS.R (R121): character 0x52, by default code 0x0A of the Letters table. -/
def execLtrsR (s : State) : Host.Outcome State Fault Refusal := onBenchFramer (putChar s.cfg 0x52) s

/-- LTRS.J (R121): character 0x4A, by default code 0x0B of the Letters table. -/
def execLtrsJ (s : State) : Host.Outcome State Fault Refusal := onBenchFramer (putChar s.cfg 0x4A) s

/-- LTRS.N (R121): character 0x4E, by default code 0x0C of the Letters table. -/
def execLtrsN (s : State) : Host.Outcome State Fault Refusal := onBenchFramer (putChar s.cfg 0x4E) s

/-- LTRS.F (R121): character 0x46, by default code 0x0D of the Letters table. -/
def execLtrsF (s : State) : Host.Outcome State Fault Refusal := onBenchFramer (putChar s.cfg 0x46) s

/-- LTRS.C (R121): character 0x43, by default code 0x0E of the Letters table. -/
def execLtrsC (s : State) : Host.Outcome State Fault Refusal := onBenchFramer (putChar s.cfg 0x43) s

/-- LTRS.K (R121): character 0x4B, by default code 0x0F of the Letters table. -/
def execLtrsK (s : State) : Host.Outcome State Fault Refusal := onBenchFramer (putChar s.cfg 0x4B) s

/-- LTRS.T (R121): character 0x54, by default code 0x10 of the Letters table. -/
def execLtrsT (s : State) : Host.Outcome State Fault Refusal := onBenchFramer (putChar s.cfg 0x54) s

/-- LTRS.Z (R121): character 0x5A, by default code 0x11 of the Letters table. -/
def execLtrsZ (s : State) : Host.Outcome State Fault Refusal := onBenchFramer (putChar s.cfg 0x5A) s

/-- LTRS.L (R121): character 0x4C, by default code 0x12 of the Letters table. -/
def execLtrsL (s : State) : Host.Outcome State Fault Refusal := onBenchFramer (putChar s.cfg 0x4C) s

/-- LTRS.W (R121): character 0x57, by default code 0x13 of the Letters table. -/
def execLtrsW (s : State) : Host.Outcome State Fault Refusal := onBenchFramer (putChar s.cfg 0x57) s

/-- LTRS.H (R121): character 0x48, by default code 0x14 of the Letters table. -/
def execLtrsH (s : State) : Host.Outcome State Fault Refusal := onBenchFramer (putChar s.cfg 0x48) s

/-- LTRS.Y (R121): character 0x59, by default code 0x15 of the Letters table. -/
def execLtrsY (s : State) : Host.Outcome State Fault Refusal := onBenchFramer (putChar s.cfg 0x59) s

/-- LTRS.P (R121): character 0x50, by default code 0x16 of the Letters table. -/
def execLtrsP (s : State) : Host.Outcome State Fault Refusal := onBenchFramer (putChar s.cfg 0x50) s

/-- LTRS.Q (R121): character 0x51, by default code 0x17 of the Letters table. -/
def execLtrsQ (s : State) : Host.Outcome State Fault Refusal := onBenchFramer (putChar s.cfg 0x51) s

/-- LTRS.O (R121): character 0x4F, by default code 0x18 of the Letters table. -/
def execLtrsO (s : State) : Host.Outcome State Fault Refusal := onBenchFramer (putChar s.cfg 0x4F) s

/-- LTRS.B (R121): character 0x42, by default code 0x19 of the Letters table. -/
def execLtrsB (s : State) : Host.Outcome State Fault Refusal := onBenchFramer (putChar s.cfg 0x42) s

/-- LTRS.G (R121): character 0x47, by default code 0x1A of the Letters table. -/
def execLtrsG (s : State) : Host.Outcome State Fault Refusal := onBenchFramer (putChar s.cfg 0x47) s

/-- LTRS.M (R121): character 0x4D, by default code 0x1C of the Letters table. -/
def execLtrsM (s : State) : Host.Outcome State Fault Refusal := onBenchFramer (putChar s.cfg 0x4D) s

/-- LTRS.X (R121): character 0x58, by default code 0x1D of the Letters table. -/
def execLtrsX (s : State) : Host.Outcome State Fault Refusal := onBenchFramer (putChar s.cfg 0x58) s

/-- LTRS.V (R121): character 0x56, by default code 0x1E of the Letters table. -/
def execLtrsV (s : State) : Host.Outcome State Fault Refusal := onBenchFramer (putChar s.cfg 0x56) s

/-- FIGS.3 (R122): character 0x33, by default code 0x01 of the Figures table. -/
def execFigs3 (s : State) : Host.Outcome State Fault Refusal := onBenchFramer (putChar s.cfg 0x33) s

/-- FIGS.LF (R122): character 0x0A, by default code 0x02 of the Figures table. -/
def execFigsLf (s : State) : Host.Outcome State Fault Refusal := onBenchFramer (putChar s.cfg 0x0A) s

/-- FIGS.- (R122): character 0x2D, by default code 0x03 of the Figures table. -/
def execFigsMinus (s : State) : Host.Outcome State Fault Refusal := onBenchFramer (putChar s.cfg 0x2D) s

/-- FIGS.SP (R122): character 0x20, by default code 0x04 of the Figures table. -/
def execFigsSp (s : State) : Host.Outcome State Fault Refusal := onBenchFramer (putChar s.cfg 0x20) s

/-- FIGS.' (R122): character 0x27, by default code 0x05 of the Figures table. -/
def execFigsApostrophe (s : State) : Host.Outcome State Fault Refusal := onBenchFramer (putChar s.cfg 0x27) s

/-- FIGS.8 (R122): character 0x38, by default code 0x06 of the Figures table. -/
def execFigs8 (s : State) : Host.Outcome State Fault Refusal := onBenchFramer (putChar s.cfg 0x38) s

/-- FIGS.7 (R122): character 0x37, by default code 0x07 of the Figures table. -/
def execFigs7 (s : State) : Host.Outcome State Fault Refusal := onBenchFramer (putChar s.cfg 0x37) s

/-- FIGS.CR (R122): character 0x0D, by default code 0x08 of the Figures table. -/
def execFigsCr (s : State) : Host.Outcome State Fault Refusal := onBenchFramer (putChar s.cfg 0x0D) s

/-- FIGS.ENQ (R122): character 0x05, by default code 0x09 of the Figures table. -/
def execFigsEnq (s : State) : Host.Outcome State Fault Refusal := onBenchFramer (putChar s.cfg 0x05) s

/-- FIGS.4 (R122): character 0x34, by default code 0x0A of the Figures table. -/
def execFigs4 (s : State) : Host.Outcome State Fault Refusal := onBenchFramer (putChar s.cfg 0x34) s

/-- FIGS.BEL (R122): character 0x07, by default code 0x0B of the Figures table. -/
def execFigsBel (s : State) : Host.Outcome State Fault Refusal := onBenchFramer (putChar s.cfg 0x07) s

/-- FIGS., (R122): character 0x2C, by default code 0x0C of the Figures table. -/
def execFigsComma (s : State) : Host.Outcome State Fault Refusal := onBenchFramer (putChar s.cfg 0x2C) s

/-- FIGS.: (R122): character 0x3A, by default code 0x0E of the Figures table. -/
def execFigsColon (s : State) : Host.Outcome State Fault Refusal := onBenchFramer (putChar s.cfg 0x3A) s

/-- FIGS.( (R122): character 0x28, by default code 0x0F of the Figures table. -/
def execFigsLParen (s : State) : Host.Outcome State Fault Refusal := onBenchFramer (putChar s.cfg 0x28) s

/-- FIGS.5 (R122): character 0x35, by default code 0x10 of the Figures table. -/
def execFigs5 (s : State) : Host.Outcome State Fault Refusal := onBenchFramer (putChar s.cfg 0x35) s

/-- FIGS.+ (R122): character 0x2B, by default code 0x11 of the Figures table. -/
def execFigsPlus (s : State) : Host.Outcome State Fault Refusal := onBenchFramer (putChar s.cfg 0x2B) s

/-- FIGS.) (R122): character 0x29, by default code 0x12 of the Figures table. -/
def execFigsRParen (s : State) : Host.Outcome State Fault Refusal := onBenchFramer (putChar s.cfg 0x29) s

/-- FIGS.2 (R122): character 0x32, by default code 0x13 of the Figures table. -/
def execFigs2 (s : State) : Host.Outcome State Fault Refusal := onBenchFramer (putChar s.cfg 0x32) s

/-- FIGS.6 (R122): character 0x36, by default code 0x15 of the Figures table. -/
def execFigs6 (s : State) : Host.Outcome State Fault Refusal := onBenchFramer (putChar s.cfg 0x36) s

/-- FIGS.0 (R122): character 0x30, by default code 0x16 of the Figures table. -/
def execFigs0 (s : State) : Host.Outcome State Fault Refusal := onBenchFramer (putChar s.cfg 0x30) s

/-- FIGS.1 (R122): character 0x31, by default code 0x17 of the Figures table. -/
def execFigs1 (s : State) : Host.Outcome State Fault Refusal := onBenchFramer (putChar s.cfg 0x31) s

/-- FIGS.9 (R122): character 0x39, by default code 0x18 of the Figures table. -/
def execFigs9 (s : State) : Host.Outcome State Fault Refusal := onBenchFramer (putChar s.cfg 0x39) s

/-- FIGS.? (R122): character 0x3F, by default code 0x19 of the Figures table. -/
def execFigsQuestion (s : State) : Host.Outcome State Fault Refusal := onBenchFramer (putChar s.cfg 0x3F) s

/-- FIGS.. (R122): character 0x2E, by default code 0x1C of the Figures table. -/
def execFigsPeriod (s : State) : Host.Outcome State Fault Refusal := onBenchFramer (putChar s.cfg 0x2E) s

/-- FIGS./ (R122): character 0x2F, by default code 0x1D of the Figures table. -/
def execFigsSlash (s : State) : Host.Outcome State Fault Refusal := onBenchFramer (putChar s.cfg 0x2F) s

/-- FIGS.= (R122): character 0x3D, by default code 0x1E of the Figures table. -/
def execFigsEquals (s : State) : Host.Outcome State Fault Refusal := onBenchFramer (putChar s.cfg 0x3D) s

/-- CODE_LTRS (40_baudot_codec.md R124): the bench's framer switches to the Letters table and appends the framed shift code
(log 18). -/
def execCodeLtrs (s : State) : Host.Outcome State Fault Refusal := onBenchFramer (putShift s.cfg .letters) s

/-- CODE_FIGS (40_baudot_codec.md R124): the bench's framer switches to the Figures table and appends the framed shift code
(log 18). -/
def execCodeFigs (s : State) : Host.Outcome State Fault Refusal := onBenchFramer (putShift s.cfg .figures) s

end Sys2Proof.Machine
end

