-- ==== Sys2Proof/Machine/Dds.lean ====
section
/-! DEFINITION. The Waveform Synthesizer (spec/42_dds_synth.md): PHASEINC, HOLDTICKS, DDS_TICK, TX_START, BIT_ADVANCE. -/

namespace Sys2Proof.Machine

/-- PHASEINC(f) = floor((2 f 2^32 + F_DDS) / (2 F_DDS)) mod 2^32 (R162), on exact integers. -/
def phaseInc (cfg : Config) (f : BitVec 16) : BitVec 32 :=
  BitVec.ofNat 32 ((2 * f.toNat * 2 ^ 32 + cfg.fDds) / (2 * cfg.fDds))

/-- HOLDTICKS(B) = floor((2 100 F_DDS + B) / (2 B)) for B >= 1 (R164); no value is chosen for B = 0 (log 8). -/
def holdTicksOf (cfg : Config) (b : BitVec 16) : BitVec 32 :=
  if b = 0 then Config.holdTicksAtZero else BitVec.ofNat 32 ((2 * 100 * cfg.fDds + b.toNat) / (2 * b.toNat))

/-- `SINE[i]` (20_memory.md R64). -/
def sineAt (cfg : Config) (i : BitVec 8) : Byte := (cfg.sine.getD (i.toNat / 16) []).getD (i.toNat % 16) 0

/-- The top 8 bits of the accumulator, `ACC[31:24]` (R161). -/
def phaseIndex (acc : BitVec 32) : BitVec 8 := acc.extractLsb' 24 8

/-- The sample for an accumulator value. -/
def sampleOf (cfg : Config) (acc : BitVec 32) : Byte := sineAt cfg (phaseIndex acc)

/-- DDS_TICK (R161): advance the phase, then index the table with the new value, send the frame, and count the hold of a
transmission down. -/
def ddsTick (s : State) : State :=
  let s₁ : State := { s with acc := s.acc + s.inc }
  let s₂ := dacWrite (dacFrame s.cfg (sampleOf s.cfg s₁.acc)) s₁
  if s₂.arb = .rttyActive ∧ s₂.holdCnt ≠ 0 then { s₂ with holdCnt := s₂.holdCnt - 1 } else s₂

/-- `sel(b)`: bit value 1 takes INC_HIGH, 0 takes INC_LOW (R163). -/
def State.sel (s : State) (b : Bool) : BitVec 32 := if b then s.incHigh else s.incLow

/-- TX_START (R165): the snapshot of the tone registers, then the first bit. -/
def txStart (s : State) : State :=
  let s₁ : State := { s with incHigh := phaseInc s.cfg s.highHz, incLow := phaseInc s.cfg s.lowHz,
                             holdTicks := holdTicksOf s.cfg s.baudC, planPos := 0 }
  { s₁ with inc := s₁.sel (s₁.planBit 0), holdCnt := s₁.holdTicks }

/-- BIT_ADVANCE (R166): to the next bit, or to silence and Idle past the last one; the comparison uses the new
PLAN_POS. -/
def bitAdvance (s : State) : State :=
  let s₁ : State := { s with planPos := s.planPos + 1 }
  if s₁.planPos = s₁.planLen then { s₁ with inc := 0, arb := .idle }
  else { s₁ with inc := s₁.sel (s₁.planBit s₁.planPos.toNat), holdCnt := s₁.holdTicks }

/-- DACFRAME (30_encoding.md R98): one converter transaction with sample `x`, `Dac({DAC_CFG, x, 0000})`, on the bench's
converter: on the block's own bus `Dac` events come from the two ticks alone (44_transport_arbiter.md R207; log 1). -/
def execDacframe (x : BitVec 8) (s : State) : Host.Outcome State Fault Refusal :=
  onBench (Bench.emit (.dac (dacFrame s.cfg x))) s

end Sys2Proof.Machine
end

