-- ==== Sys2Proof/Machine/Streamer.lean ====
section
/-! DEFINITION. The Sample Streamer (spec/43_sample_streamer.md): STREAM_START, PB_TICK, PB_TERMINATE; and the meanings of
the memory-link rows of the opcode table. -/

namespace Sys2Proof.Machine

/-- STREAM_START (R180): the cursor is created, the device selected, the header sent. -/
def streamStart (s : State) : State :=
  memLinkCmd (memHeader s.cfg)
    (memLinkSelect { s with curSample := 0, sentCnt := 0, pbActive := true, pbDone := false })

/-- PB_TERMINATE (R183): release the chip-select, disable the source, clear the cursor, signal completion. -/
def pbTerminate (s : State) : State :=
  let s₁ := memLinkDeselect s
  { s₁ with pbEn := false, pbActive := false, curSample := 0, sentCnt := 0, pbDone := true }

/-- The sentinel count after a byte (R182): one more for the sentinel, 0 for any other byte. -/
def sentAfter (cfg : Config) (b : Byte) (n : Nat) : Nat := if b = cfg.sentinel then n + 1 else 0

/-- PB_TICK (R181) when the device answers `b`: emit the buffered sample, take the byte, count sentinels, and terminate
inside the same step when the run reaches SENT_THRESH. -/
def pbTick (b : Byte) (s : State) : State :=
  let s₁ := memLinkReadByte b (dacWrite (dacFrame s.cfg s.curSample) s)
  let s₂ : State := { s₁ with curSample := b, sentCnt := sentAfter s.cfg b s₁.sentCnt }
  if s.cfg.sentThresh ≤ s₂.sentCnt then pbTerminate s₂ else s₂

/-- MEMCMD (30_encoding.md R99, 20_memory.md R65): the header `{MEM_OPCODE, MEM_START}` shifted out on the bench's memory
link, whose device then starts its stream at byte 0. The block itself sends the header at PLAY accept alone, and between
that and the end of the playback only PB_TICK touches its link (43_sample_streamer.md R187; log 1). -/
def execMemcmd (s : State) : Host.Outcome State Fault Refusal :=
  onBench (fun b => { Bench.emit (.memCmd (memHeader s.cfg)) b with xpos := 0 }) s

/-- MEMBYTE (30_encoding.md R100, 43_sample_streamer.md R181): the playback tick that the device answers with `b`. A byte
is clocked in exactly while PB_EN = 1 (R190); otherwise none is, and nothing changes (log 19). -/
def execMembyte (b : BitVec 8) (s : State) : Host.Outcome State Fault Refusal :=
  .next (if s.pbEn then pbTick b s else s)

end Sys2Proof.Machine
end

