-- ==== Sys2Proof/Machine/Arbiter.lean ====
section
/-! DEFINITION. The Transport Arbiter (spec/44_transport_arbiter.md): PLAY_ACCEPT and PLAY_COMPLETE. Its transitions of a
SEND stand with SEND (R205, Machine/HostCmd.lean) and BIT_ADVANCE (Machine/Dds.lean). -/

namespace Sys2Proof.Machine

/-- PLAY_ACCEPT (R202), in the order written: PlaybackActive, save DDS_EN, disable the DDS source, start the stream,
enable the playback source. -/
def playAccept (s : State) : State :=
  let s₁ : State := { s with arb := .playbackActive, savedDdsEn := s.ddsEn }
  let s₂ := streamStart { s₁ with ddsEn := false }
  { s₂ with pbEn := true }

/-- PLAY_COMPLETE (R204): restore the saved enable, back to Idle. -/
def playComplete (s : State) : State := { s with ddsEn := s.savedDdsEn, arb := .idle }

end Sys2Proof.Machine
end

