-- ==== Sys2Proof/Machine/HostCmd.lean ====
section
/-! DEFINITION. The meanings of the host commands (spec/45_host_commands.md), one a CMD32 row, and of the two rows of the
host's output ports. Every command is one atomic step of the main sequence, accepted only in Idle (R220). -/

namespace Sys2Proof.Machine

/-- NOP (R232): accepted, no effect, no response. -/
def execNop (s : State) : Host.Outcome State Fault Refusal := .next s

/-- MSGCLR (R221): MSG_LEN to 0; the cells keep their contents. -/
def execMsgclr (s : State) : Host.Outcome State Fault Refusal := whenIdle (fun s => { s with msgLen := 0 }) s

/-- `MSG[MSG_LEN] <- c`, one more in MSG_LEN; in a full buffer the character is dropped (R222). -/
def msgPut (c : Byte) (s : State) : State :=
  if s.msgLen.toNat < s.cfg.msgMax then
    { s with msg := Memory.write s.msg s.msgLen.toNat c, msgLen := s.msgLen + 1 }
  else s

/-- MSGPUT c (R222). -/
def execMsgput (c : BitVec 8) (s : State) : Host.Outcome State Fault Refusal := whenIdle (msgPut c) s

/-- SEND's three lines (R223): RttyActive, BUILDPLAN, TX_START. -/
def sendAccept (s : State) : State :=
  let s₁ : State := { s with arb := .rttyActive }
  txStart (s₁.withFramer (buildPlan s₁.cfg s₁.message s₁.framer))

/-- SEND (R223): one atomic step that takes no DDS tick. -/
def execSend (s : State) : Host.Outcome State Fault Refusal := whenIdle sendAccept s

/-- PLAY (R224): PLAY_ACCEPT. -/
def execPlay (s : State) : Host.Outcome State Fault Refusal := whenIdle playAccept s

/-- SETHI f (R225): every value is stored as given. -/
def execSethi (f : BitVec 16) (s : State) : Host.Outcome State Fault Refusal := whenIdle (fun s => { s with highHz := f }) s

/-- SETLO f (R226). -/
def execSetlo (f : BitVec 16) (s : State) : Host.Outcome State Fault Refusal := whenIdle (fun s => { s with lowHz := f }) s

/-- SETBAUD b (R227): b = 0 has no effect. -/
def execSetbaud (b : BitVec 16) (s : State) : Host.Outcome State Fault Refusal :=
  whenIdle (fun s => if b ≠ 0 then { s with baudC := b } else s) s

/-- RSTTONE (R228): the three tone registers to their defaults. -/
def execRsttone (s : State) : Host.Outcome State Fault Refusal :=
  whenIdle (fun s => { s with highHz := s.cfg.defHighHz, lowHz := s.cfg.defLowHz, baudC := s.cfg.defBaudC }) s

/-- GETHI (R229): `Rsp(zext_32(HIGH_HZ))`. -/
def execGethi (s : State) : Host.Outcome State Fault Refusal := whenIdle (fun s => respond (zext32 s.highHz) s) s

/-- GETLO (R230): `Rsp(zext_32(LOW_HZ))`. -/
def execGetlo (s : State) : Host.Outcome State Fault Refusal := whenIdle (fun s => respond (zext32 s.lowHz) s) s

/-- GETBAUD (R231): `Rsp(zext_32(BAUD_C))`. -/
def execGetbaud (s : State) : Host.Outcome State Fault Refusal := whenIdle (fun s => respond (zext32 s.baudC) s) s

/-- Reserved opcode 0xC (R233): accepted, no effect, no response. -/
def execReservedC (s : State) : Host.Outcome State Fault Refusal := .next s

/-- Reserved opcode 0xD (R233): accepted, no effect, no response. -/
def execReservedD (s : State) : Host.Outcome State Fault Refusal := .next s

/-- Reserved opcode 0xE (R233): accepted, no effect, no response. -/
def execReservedE (s : State) : Host.Outcome State Fault Refusal := .next s

/-- Reserved opcode 0xF (R233): accepted, no effect, no response. -/
def execReservedF (s : State) : Host.Outcome State Fault Refusal := .next s

/-- RSP (30_encoding.md R102): the response word `zext_32(v)` on the bench's response port: the block itself responds to a
GET command alone (log 1). -/
def execRsp (v : BitVec 16) (s : State) : Host.Outcome State Fault Refusal := onBench (Bench.emit (.rsp (zext32 v))) s

/-- STATUS (10_state.md R42): the host reads the "read-only output port, always readable"; a read changes no state
(20_memory.md R73), whatever the word read (log 20). -/
def execStatus (_d _a _p _e _sh : Bool) (_k : BitVec 2) (s : State) : Host.Outcome State Fault Refusal := .next s

end Sys2Proof.Machine
end

