-- ==== Sys2Proof/Machine/Dispatch.lean ====
section
/-! DEFINITION. One arm per row of spec/opcode_table.json, each one direct call of the row's meaning. -/

namespace Sys2Proof.Machine

def exec (i : Instr) (s : State) : Host.Outcome State Fault Refusal :=
  match i with
  | .nop => Sys2Proof.Machine.execNop s
  | .msgclr => Sys2Proof.Machine.execMsgclr s
  | .msgput c => Sys2Proof.Machine.execMsgput c s
  | .send => Sys2Proof.Machine.execSend s
  | .play => Sys2Proof.Machine.execPlay s
  | .sethi f => Sys2Proof.Machine.execSethi f s
  | .setlo f => Sys2Proof.Machine.execSetlo f s
  | .setbaud b => Sys2Proof.Machine.execSetbaud b s
  | .rsttone => Sys2Proof.Machine.execRsttone s
  | .gethi => Sys2Proof.Machine.execGethi s
  | .getlo => Sys2Proof.Machine.execGetlo s
  | .getbaud => Sys2Proof.Machine.execGetbaud s
  | .reservedC => Sys2Proof.Machine.execReservedC s
  | .reservedD => Sys2Proof.Machine.execReservedD s
  | .reservedE => Sys2Proof.Machine.execReservedE s
  | .reservedF => Sys2Proof.Machine.execReservedF s
  | .rsp v => Sys2Proof.Machine.execRsp v s
  | .status d a p e sh k => Sys2Proof.Machine.execStatus d a p e sh k s
  | .sym k => Sys2Proof.Machine.execSym k s
  | .symCr => Sys2Proof.Machine.execSymCr s
  | .symLf => Sys2Proof.Machine.execSymLf s
  | .symLtrs => Sys2Proof.Machine.execSymLtrs s
  | .symFigs => Sys2Proof.Machine.execSymFigs s
  | .dacframe x => Sys2Proof.Machine.execDacframe x s
  | .memcmd => Sys2Proof.Machine.execMemcmd s
  | .membyte b => Sys2Proof.Machine.execMembyte b s
  | .ltrsE => Sys2Proof.Machine.execLtrsE s
  | .ltrsLf => Sys2Proof.Machine.execLtrsLf s
  | .ltrsA => Sys2Proof.Machine.execLtrsA s
  | .ltrsSp => Sys2Proof.Machine.execLtrsSp s
  | .ltrsS => Sys2Proof.Machine.execLtrsS s
  | .ltrsI => Sys2Proof.Machine.execLtrsI s
  | .ltrsU => Sys2Proof.Machine.execLtrsU s
  | .ltrsCr => Sys2Proof.Machine.execLtrsCr s
  | .ltrsD => Sys2Proof.Machine.execLtrsD s
  | .ltrsR => Sys2Proof.Machine.execLtrsR s
  | .ltrsJ => Sys2Proof.Machine.execLtrsJ s
  | .ltrsN => Sys2Proof.Machine.execLtrsN s
  | .ltrsF => Sys2Proof.Machine.execLtrsF s
  | .ltrsC => Sys2Proof.Machine.execLtrsC s
  | .ltrsK => Sys2Proof.Machine.execLtrsK s
  | .ltrsT => Sys2Proof.Machine.execLtrsT s
  | .ltrsZ => Sys2Proof.Machine.execLtrsZ s
  | .ltrsL => Sys2Proof.Machine.execLtrsL s
  | .ltrsW => Sys2Proof.Machine.execLtrsW s
  | .ltrsH => Sys2Proof.Machine.execLtrsH s
  | .ltrsY => Sys2Proof.Machine.execLtrsY s
  | .ltrsP => Sys2Proof.Machine.execLtrsP s
  | .ltrsQ => Sys2Proof.Machine.execLtrsQ s
  | .ltrsO => Sys2Proof.Machine.execLtrsO s
  | .ltrsB => Sys2Proof.Machine.execLtrsB s
  | .ltrsG => Sys2Proof.Machine.execLtrsG s
  | .ltrsM => Sys2Proof.Machine.execLtrsM s
  | .ltrsX => Sys2Proof.Machine.execLtrsX s
  | .ltrsV => Sys2Proof.Machine.execLtrsV s
  | .figs3 => Sys2Proof.Machine.execFigs3 s
  | .figsLf => Sys2Proof.Machine.execFigsLf s
  | .figsMinus => Sys2Proof.Machine.execFigsMinus s
  | .figsSp => Sys2Proof.Machine.execFigsSp s
  | .figsApostrophe => Sys2Proof.Machine.execFigsApostrophe s
  | .figs8 => Sys2Proof.Machine.execFigs8 s
  | .figs7 => Sys2Proof.Machine.execFigs7 s
  | .figsCr => Sys2Proof.Machine.execFigsCr s
  | .figsEnq => Sys2Proof.Machine.execFigsEnq s
  | .figs4 => Sys2Proof.Machine.execFigs4 s
  | .figsBel => Sys2Proof.Machine.execFigsBel s
  | .figsComma => Sys2Proof.Machine.execFigsComma s
  | .figsColon => Sys2Proof.Machine.execFigsColon s
  | .figsLParen => Sys2Proof.Machine.execFigsLParen s
  | .figs5 => Sys2Proof.Machine.execFigs5 s
  | .figsPlus => Sys2Proof.Machine.execFigsPlus s
  | .figsRParen => Sys2Proof.Machine.execFigsRParen s
  | .figs2 => Sys2Proof.Machine.execFigs2 s
  | .figs6 => Sys2Proof.Machine.execFigs6 s
  | .figs0 => Sys2Proof.Machine.execFigs0 s
  | .figs1 => Sys2Proof.Machine.execFigs1 s
  | .figs9 => Sys2Proof.Machine.execFigs9 s
  | .figsQuestion => Sys2Proof.Machine.execFigsQuestion s
  | .figsPeriod => Sys2Proof.Machine.execFigsPeriod s
  | .figsSlash => Sys2Proof.Machine.execFigsSlash s
  | .figsEquals => Sys2Proof.Machine.execFigsEquals s
  | .codeLtrs => Sys2Proof.Machine.execCodeLtrs s
  | .codeFigs => Sys2Proof.Machine.execCodeFigs s

end Sys2Proof.Machine
end

