-- ==== Sys2Proof/Machine/Pins.lean ====
section
/-! DEFINITION. The ports between two steps and the waveforms that realise the events on the wires (spec/30_encoding.md
R105, R106, R107; 70_reset_and_hazards.md R282). Pins are computed, not stored: "a model that works at the level of the
events of 00_scope.md rule R11 need not model the pins" (R105; log 22); a reset within a step cuts these waveforms. -/

namespace Sys2Proof.Machine

/-- The output ports (30_encoding.md R107). `rspData` has a value exactly while `rsp_valid = 1`. -/
structure Pins where
  cmdReady : Bool
  rspValid : Bool
  rspData : Option (BitVec 32)
  status : Byte
  dac : DacLines
  mem : MemLines
  deriving DecidableEq, Repr

/-- The converter bus at rest (R106, R282): no transaction is under way between two steps (10_state.md R41). -/
def DacLines.idle : DacLines := ⟨true, false, false⟩

/-- The memory link between two transactions: clock and data low, chip-select low exactly while MEM_CS = 1 (R105, 43_sample_streamer.md R184). -/
def MemLines.rest (memCs : Bool) : MemLines := ⟨!memCs, false, false⟩

/-- The output ports between two steps. -/
def State.pins (s : State) : Pins where
  cmdReady := s.cmdReady
  rspValid := s.rspPort.isSome
  rspData := s.rspPort
  status := s.status
  dac := .idle
  mem := .rest s.memCs

/-- The bits of a word, most significant first: the order of both buses (20_memory.md R67, R69). -/
def bitsMsbFirst {n : Nat} (w : BitVec n) : List Bool := (List.range n).reverse.map w.getLsbD

/-- The byte assembled from the eight bits sampled on data-in, the first of them bit 7 (20_memory.md R67). -/
def byteOfBits (bs : List Bool) : Byte := bs.foldl (fun b x => (b <<< 1) ||| (BitVec.ofBool x).setWidth 8) 0

/-- One bit on the converter bus: data, clock up, clock down (R106). -/
def dacShift (l : DacLines) : List Bool → List DacLines
  | [] => []
  | b :: bs => { l with sdi := b } :: { l with sdi := b, sck := true } :: { l with sdi := b, sck := false }
      :: dacShift { l with sdi := b, sck := false } bs

/-- `DacWrite(f)` on the wires (R106): select, 16 bits from bit 15 down, deselect. One entry per change. -/
def dacWave (f : BitVec 16) : List DacLines :=
  let w := { DacLines.idle with csN := false } :: dacShift { DacLines.idle with csN := false } (bitsMsbFirst f)
  w ++ [{ w.getLastD DacLines.idle with csN := true }]

/-- One bit sent on the memory link (R105). -/
def memShift (l : MemLines) : List Bool → List MemLines
  | [] => []
  | b :: bs => { l with mosi := b } :: { l with mosi := b, sck := true } :: { l with mosi := b, sck := false }
      :: memShift { l with mosi := b, sck := false } bs

/-- `MemLinkCmd(w)` on the wires, the device selected (R105): 32 clock pulses, bit 31 first. -/
def memCmdWave (w : BitVec 32) : List MemLines := memShift (.rest true) (bitsMsbFirst w)

/-- `MemLinkReadByte()` on the wires (R105): 8 clock pulses with data-out held 0. -/
def memReadWave : List MemLines :=
  (List.range 8).flatMap (fun _ => [{ MemLines.rest true with sck := true }, MemLines.rest true])

/-- The line changes of an event, oldest first. A response travels on a port and not on a bus (30_encoding.md R102, R107),
so it has none and no count of line changes cuts it: the model's choice (DESIGN CHOICE, unsafe; log 22). -/
def eventWave : Event → List BusLines
  | .dac f => (dacWave f).map .dac
  | .memSel => [.mem (.rest true)]
  | .memCmd w => (memCmdWave w).map .mem
  | .memRd _ => memReadWave.map .mem
  | .memDesel => [.mem (.rest false)]
  | .rsp _ => []

/-- The events whose line changes are all out after `n` of them, and the changes out of the event after those. A response,
which has no line changes, is among the first as soon as all before it is out (DESIGN CHOICE, log 22). -/
def cutAt : Nat → List Event → List Event × List BusLines
  | _, [] => ([], [])
  | n, e :: es =>
    if (eventWave e).length ≤ n then
      let r := cutAt (n - (eventWave e).length) es
      (e :: r.1, r.2)
    else ([], (eventWave e).take n)

/-- What the converter shifts in: data at each rising clock edge while selected. -/
def dacSampled : DacLines → List DacLines → List Bool
  | _, [] => []
  | p, l :: ls => if !p.sck && l.sck && !l.csN then l.sdi :: dacSampled l ls else dacSampled l ls

/-- What the memory device shifts in: data at each rising clock edge while selected. -/
def memSampled : MemLines → List MemLines → List Bool
  | _, [] => []
  | p, l :: ls => if !p.sck && l.sck && !l.csN then l.mosi :: memSampled l ls else memSampled l ls

end Sys2Proof.Machine
end

