-- ==== Sys2Proof/Machine/Sequencer.lean ====
section
/-! DEFINITION. Which agent takes the next step (spec/00_scope.md R10, 60_exceptions.md R257), how a unit is fetched from
its port and run, how a reset cuts a step, and how a unit is placed where the next step fetches it. The external memory is
an argument here, any total function (20_memory.md R65); `step` in Machine/Step.lean takes the one its state describes. -/

namespace Sys2Proof.Machine

/-- When a unit of a format is taken: a command while the main sequence is free (45_host_commands.md R220), a streamed byte
while the playback tick occurs (43_sample_streamer.md R190), the units of the bench and a read of STATUS at any step
(log 1). -/
def ready (f : Format) (s : State) : Bool :=
  match f with
  | .cmd32 => s.cmdReady
  | .memByte => s.pbEn
  | .b5 _ => true
  | .sym8 => true
  | .rsp32 => true
  | .status8 => true
  | .dac16 => true
  | .mem32 => true

/-- A new step begins with no response on the response port: a response is presented "in the step that accepts the
command" (30_encoding.md R102). -/
def beginStep (s : State) : State := { s with rspPort := none }

/-- Both sources enabled: the state "is to be treated as a fault, not given an order" (60_exceptions.md R257). -/
def bothEnabled (s : State) : Bool := s.ddsEn && s.pbEn

/-- The step of the block's own agents, with the external memory `mem`: BIT_ADVANCE, "taken before the next DDS tick"
(42_dds_synth.md R166); PLAY_COMPLETE (44_transport_arbiter.md R204); the tick of the enabled source (R161, R181), the
playback tick fetching the byte `XMEM(XPOS)`. With none enabled, which no run reaches, nothing happens (log 16). -/
def ownStep (mem : Nat → Byte) (s : State) : Host.Outcome State Fault Refusal :=
  if bothEnabled s then .fault .bothSourcesEnabled
  else if s.arb = .rttyActive ∧ s.holdCnt = 0 then .next (bitAdvance s)
  else if s.arb = .playbackActive ∧ s.pbDone then .next (playComplete s)
  else if s.ddsEn then .next (ddsTick s)
  else if s.pbEn then exec (.membyte (mem s.xpos)) s
  else .next s

/-- A unit taken from its port: decoded, then run in this same step. -/
def runUnit (f : Format) (w : BitVec 32) (s : State) : Host.Outcome State Fault Refusal :=
  match decode s.cfg f w with
  | .ok i => exec i s
  | .error e => .refused (.undecodable e)

/-- One step with `rst = 0` throughout; a unit that cannot be taken yet stays on its port while the block's own agents go
on (45_host_commands.md R220). -/
def runStep (mem : Nat → Byte) (s : State) : Host.Outcome State Fault Refusal :=
  match s.stimuli with
  | [] => ownStep mem (beginStep s)
  | .quiet :: rest => ownStep mem (beginStep { s with stimuli := rest })
  | .rst :: _ => ownStep mem (beginStep s)
  | .cut _ :: _ => ownStep mem (beginStep s)
  | .unit f w :: rest =>
    if bothEnabled s then .fault .bothSourcesEnabled
    else if ready f s then runUnit f w (beginStep { s with stimuli := rest })
    else ownStep mem (beginStep s)

/-- The events of a step from `s` to `t`, oldest first. -/
def eventsBetween (s t : State) : List Event := (t.trace.take (t.trace.length - s.trace.length)).reverse

/-- A step in which `rst` rises when `n` line changes of its bus transactions are out: the events completed by then have
happened, the transaction under way is left as it is on the wires, and the block takes the reset state
(70_reset_and_hazards.md R280 to R282; log 22). Where the step without `rst` stops there is nothing to cut.
Whether a GET accepted in a step that `rst` cuts has emitted its `Rsp(v)` the spec does not say (30_encoding.md R102, R282):
here it has, at every `n`, while the port reads `rsp_valid = 0` after the reset (DESIGN CHOICE, unsafe; log 22). -/
def cutStep (mem : Nat → Byte) (n : Nat) (s : State) : State :=
  match runStep mem s with
  | .next t =>
    let c := cutAt n (eventsBetween s t)
    resetWithin c.1 c.2 { s with stimuli := t.stimuli }
  | .fault _ => applyReset s
  | .refused _ => applyReset s

/-- One step with the external memory `mem`. `rst` acts "whatever it was doing" (70_reset_and_hazards.md R280). -/
def stepOn (mem : Nat → Byte) (s : State) : Host.Outcome State Fault Refusal :=
  match s.stimuli with
  | .rst :: rest => .next (applyReset { s with stimuli := rest })
  | .cut n :: rest => .next (cutStep mem n { s with stimuli := rest })
  | [] => runStep mem s
  | .quiet :: _ => runStep mem s
  | .unit _ _ :: _ => runStep mem s

/-- One step, with the external memory the state describes. -/
def stepOf (s : State) : Host.Outcome State Fault Refusal := stepOn s.xmemByte s

/-- `s` with the unit `w` of format `f` where the very next step fetches it, and what that takes: Idle for a command; for
a streamed byte a playback in progress and the byte at `XMEM(XPOS)`; for the others only that not both sources are
enabled (log 3). -/
def placeUnit (f : Format) (w : BitVec 32) (s : State) : State :=
  match f with
  | .memByte =>
    { s with xmem := Memory.write s.xmem s.xpos (w.extractLsb' 0 8), arb := .playbackActive, ddsEn := false,
             savedDdsEn := true, pbEn := true, pbActive := true, pbDone := false, memCs := true,
             stimuli := .quiet :: s.stimuli }
  | .cmd32 => { s with arb := .idle, pbEn := false, stimuli := .unit f w :: s.stimuli }
  | .b5 _ => { s with pbEn := s.pbEn && !s.ddsEn, stimuli := .unit f w :: s.stimuli }
  | .sym8 => { s with pbEn := s.pbEn && !s.ddsEn, stimuli := .unit f w :: s.stimuli }
  | .rsp32 => { s with pbEn := s.pbEn && !s.ddsEn, stimuli := .unit f w :: s.stimuli }
  | .status8 => { s with pbEn := s.pbEn && !s.ddsEn, stimuli := .unit f w :: s.stimuli }
  | .dac16 => { s with pbEn := s.pbEn && !s.ddsEn, stimuli := .unit f w :: s.stimuli }
  | .mem32 => { s with pbEn := s.pbEn && !s.ddsEn, stimuli := .unit f w :: s.stimuli }

/-- A bare table word placed where the next step fetches it; a word no row has is not placed. -/
def placeWord (s : State) (nbits w : Nat) : State :=
  match tableFormat s.cfg nbits w with
  | some f => placeUnit f (BitVec.ofNat 32 w) s
  | none => s

end Sys2Proof.Machine
end

