-- ==== Sys2Proof/Machine/Step.lean ====
section
/-! DEFINITION. The step function, and the host's placing of one instruction as the next to be fetched. -/

namespace Sys2Proof.Machine

/-- One step of the machine: the whole atomic step of one agent (spec/00_scope.md R10, 20_memory.md R74). -/
def step : State → Host.Outcome State Fault Refusal := stepOf

/-- `s` with a bare table word where `step` fetches its next instruction (log 3, log 4). -/
def State.withFetchWord (s : State) (nbits w : Nat) : State := placeWord s nbits w

end Sys2Proof.Machine
end

