-- ==== Sys2Proof/Machine/Asm.lean ====
section
/-! DEFINITION. The pseudo-instructions of spec/30_encoding.md R104 as the commands they expand to; the word of each
command (R103) is `encode` of Decode.lean. -/

namespace Sys2Proof.Machine

/-- SENDTEXT: MSGCLR, a MSGPUT for each character as written, SEND (R104). -/
def sendText (text : List Byte) : List Instr := .msgclr :: (text.map Instr.msgput ++ [.send])

/-- SETTONE: SETHI, SETLO, SETBAUD (R104). -/
def setTone (hi lo baud : BitVec 16) : List Instr := [.sethi hi, .setlo lo, .setbaud baud]

/-- SENDMESSAGE: D00's `sendMessage(text, tone)` with an explicit tone (R104, 45_host_commands.md R234). -/
def sendMessage (text : List Byte) (hi lo baud : BitVec 16) : List Instr := setTone hi lo baud ++ sendText text

/-- The words a host offers to a block with parameters `cfg` for a list of commands. -/
def offers (cfg : Config) (is : List Instr) : List Stimulus := is.map (fun i => .unit .cmd32 (encode cfg i))

/-- Instructions executed one after another, stopping at the first fault or refusal. -/
def execAll : List Instr → State → Host.Outcome State Fault Refusal
  | [], s => .next s
  | i :: is, s =>
    match exec i s with
    | .next t => execAll is t
    | .fault r => .fault r
    | .refused r => .refused r

end Sys2Proof.Machine
end

