-- ==== Sys2Proof/Machine/Timing.lean ====
section
/-! DEFINITION. The durations of spec/70_reset_and_hazards.md R298, R299 and R301 and the tone of an increment
(42_dds_synth.md R174), as exact rationals of the two tick rates. No step depends on them (R297; log 21). -/

namespace Sys2Proof.Machine

/-- The seconds that `n` DDS ticks last (R298). -/
def ddsSeconds (cfg : Config) (n : Nat) : Rat := (n : Rat) / (cfg.fDds : Rat)

/-- The seconds that `n` playback ticks last (R301). -/
def pbSeconds (cfg : Config) (n : Nat) : Rat := (n : Rat) / (cfg.fPb : Rat)

/-- The DDS ticks of the transmission in progress: PLAN_LEN x HOLD_TICKS (42_dds_synth.md R173). -/
def transmissionTicks (s : State) : Nat := s.planLen.toNat * s.holdTicks.toNat

/-- The duration of a transmission (R299). -/
def transmissionSeconds (cfg : Config) (s : State) : Rat := ddsSeconds cfg (transmissionTicks s)

/-- The frequency in hertz of the tone an increment produces, `i F_DDS / 2^32` (42_dds_synth.md R174). -/
def toneHz (cfg : Config) (i : BitVec 32) : Rat := (i.toNat : Rat) * (cfg.fDds : Rat) / (2 ^ 32 : Rat)

/-- One DDS quantisation step, `F_DDS / 2^32` hertz (42_dds_synth.md R174). -/
def quantStepHz (cfg : Config) : Rat := (cfg.fDds : Rat) / (2 ^ 32 : Rat)

/-- The least converter bit rate an implementation must clock, `16 F_DDS` (R291). -/
def minDacBitRate (cfg : Config) : Nat := 16 * cfg.fDds

end Sys2Proof.Machine
end

