-- ==== Sys2Proof/Safety.lean ====
section
/-! DEFINITION. The terms the statements use: the invariants of spec/10_state.md R46, the plan as a list of codes
(41_bitstream_framer.md), the receiver that exists only to state properties (40_baudot_codec.md R130), and the sentinel
run of a stream (43_sample_streamer.md R189). -/

namespace Sys2Proof.Machine

/-- The invariants of 10_state.md R46, with those the spec states beside them: the tone in force is the one the plan bit
selects (R27), the main sequence waits for exactly one of the playback tick and the completion flag (44_transport_arbiter.md
R203, R204), the saved enable of a playback is 1 (R202), PLAN_POS never passes PLAN_LEN (R27), the buffers keep
their canonical form; and the parameters are an instantiation 00_scope.md R6 allows. -/
structure StateInv (s : State) : Prop where
  /-- 00_scope.md R6, 40_baudot_codec.md R125 -/
  cfgLawful : paramsLawful s.cfg = true
  /-- R46.1 -/
  oneSource : ¬ (s.ddsEn = true ∧ s.pbEn = true)
  /-- R46.3 -/
  pbEnPlays : s.pbEn = true → s.arb = .playbackActive
  /-- R46.3 -/
  playsNoDds : s.arb = .playbackActive → s.ddsEn = false
  /-- R46.4 -/
  ddsElse : s.arb ≠ .playbackActive → s.ddsEn = true
  /-- R46.5 -/
  silentElse : s.arb ≠ .rttyActive → s.inc = 0
  /-- R46.6 -/
  posInPlan : s.arb = .rttyActive → s.planPos.toNat < s.planLen.toNat
  /-- R46.6 -/
  holdBound : s.arb = .rttyActive → s.holdCnt.toNat ≤ s.holdTicks.toNat
  /-- R46.7 -/
  cursorEn : s.pbActive = s.pbEn ∧ s.pbEn = s.memCs
  /-- R46.8 -/
  sentBelow : s.sentCnt < s.cfg.sentThresh
  /-- R46.9 -/
  baudPos : s.baudC ≠ 0
  /-- R46.10 -/
  planOctets : s.planLen.toNat % 8 = 0
  /-- R46.10 -/
  planFits : s.planLen.toNat ≤ s.cfg.planMax
  /-- R46.10 -/
  msgFits : s.msgLen.toNat ≤ s.cfg.msgMax
  /-- R27 -/
  toneInForce : s.arb = .rttyActive → s.inc = s.sel (s.planBit s.planPos.toNat)
  /-- R203, R204 -/
  playWaits : s.arb = .playbackActive → s.pbDone = !s.pbEn
  /-- R202 -/
  savedSet : s.arb = .playbackActive → s.savedDdsEn = true
  /-- R27 -/
  posAtMost : s.planPos.toNat ≤ s.planLen.toNat
  /-- the canonical form of the buffers -/
  cells : Memory.wf s.msg ∧ Memory.wf s.plan

/-- The states the machine reaches from `s` by steps that do not stop. -/
inductive Reaches (s : State) : State → Prop where
  | here : Reaches s s
  | next {t u : State} : Reaches s t → step t = .next u → Reaches s u

/-- `n` steps, stopping at the first fault or refusal. -/
def stepN : Nat → State → Host.Outcome State Fault Refusal
  | 0, s => .next s
  | n + 1, s =>
    match step s with
    | .next t => stepN n t
    | .fault r => .fault r
    | .refused r => .refused r

/-- `n` steps with the external memory `mem`. -/
def stepNOn (mem : Nat → Byte) : Nat → State → Host.Outcome State Fault Refusal
  | 0, s => .next s
  | n + 1, s =>
    match stepOn mem s with
    | .next t => stepNOn mem n t
    | .fault r => .fault r
    | .refused r => .refused r

/-! The plan as codes. -/

/-- The codes of one character (41_bitstream_framer.md R145): its own, after a shift code if the current table lacks it;
none if both do. -/
def charCodes (cfg : Config) (t : Shift) (c : Byte) : List Code × Shift :=
  match lookup cfg c t, lookup cfg c t.other with
  | some k, _ => ([k], t)
  | none, some k => ([shiftCode cfg t.other, k], t.other)
  | none, none => ([], t)

/-- The codes of a text from a shift state, and the state after it. -/
def textCodes (cfg : Config) : Shift → List Byte → List Code × Shift
  | t, [] => ([], t)
  | t, c :: cs =>
    let a := charCodes cfg t c
    let b := textCodes cfg a.2 cs
    (a.1 ++ b.1, b.2)

/-- The codes of a whole plan (41_bitstream_framer.md R143 to R145): CR, LF, the initial shift code, the text. -/
def planCodes (cfg : Config) (text : List Byte) : List Code :=
  (lookup cfg 0x0D .letters).toList ++ (lookup cfg 0x0A .letters).toList
    ++ shiftCode cfg (initialShift cfg text) :: (textCodes cfg (initialShift cfg text) text).1

/-- The rows of the shared characters CR, LF and space (40_baudot_codec.md R123). -/
def sharedRows : List Instr := [.ltrsCr, .ltrsLf, .ltrsSp, .figsCr, .figsLf, .figsSp]

/-- The bits of a list of codes, each framed. -/
def framedBits (ks : List Code) : List Bool := ks.flatMap frame

/-- The number of encodable characters (41_bitstream_framer.md R148). -/
def encodableCount (cfg : Config) (text : List Byte) : Nat := (text.filter (fun c => !unencodable cfg c)).length

/-- The shift codes among a list of codes. -/
def shiftCount (cfg : Config) (ks : List Code) : Nat := (ks.filter (fun k => k == cfg.codeLtrs || k == cfg.codeFigs)).length

/-- A well-formed framed symbol: start bit 0, stop bits 11; its code otherwise (30_encoding.md R95). -/
def symbolCode (b0 b1 b2 b3 b4 b5 b6 b7 : Bool) : Option Code :=
  if b0 = false ∧ b6 = true ∧ b7 = true then
    some (BitVec.ofBool b5 ++ BitVec.ofBool b4 ++ BitVec.ofBool b3 ++ BitVec.ofBool b2 ++ BitVec.ofBool b1)
  else none

/-- The external receiver (40_baudot_codec.md R130, 41_bitstream_framer.md R152 property 4): symbol by symbol, applying
shift codes and `decode`. -/
def receive (cfg : Config) : Shift → List Bool → Option (List Byte)
  | _, [] => some []
  | t, b0 :: b1 :: b2 :: b3 :: b4 :: b5 :: b6 :: b7 :: bs =>
    match symbolCode b0 b1 b2 b3 b4 b5 b6 b7 with
    | none => none
    | some k =>
      if k = cfg.codeLtrs then receive cfg .letters bs
      else if k = cfg.codeFigs then receive cfg .figures bs
      else match tableAt cfg t k with
        | none => none
        | some c => (receive cfg t bs).map (fun cs => c :: cs)
  | _, _ => none

/-! Streams. -/

/-- The run of sentinel bytes that ends just before stream byte `n` (43_sample_streamer.md R182). -/
def sentinelRun (cfg : Config) (b : Nat → Byte) : Nat → Nat
  | 0 => 0
  | n + 1 => if b n = cfg.sentinel then sentinelRun cfg b n + 1 else 0

/-- The first run of SENT_THRESH sentinel bytes ends at stream byte `e` (43_sample_streamer.md R189). -/
def runEndsAt (cfg : Config) (b : Nat → Byte) (e : Nat) : Prop :=
  sentinelRun cfg b (e + 1) = cfg.sentThresh ∧ ∀ i, i ≤ e → sentinelRun cfg b i < cfg.sentThresh

/-- The sample that playback tick `n` (from 0) emits: 0 first, then the stream byte read a tick before
(43_sample_streamer.md R188). -/
def emittedSample (b : Nat → Byte) : Nat → Byte
  | 0 => 0
  | n + 1 => b n

/-- The events of the first `n` playback ticks, newest first (43_sample_streamer.md R181, R189). -/
def playbackEvents (cfg : Config) (b : Nat → Byte) : Nat → List Event
  | 0 => []
  | n + 1 => .memRd (b n) :: .dac (dacFrame cfg (emittedSample b n)) :: playbackEvents cfg b n

end Sys2Proof.Machine
end

