-- ==== Sys2Proof/Certificates/Slice0/Obligations.lean ====
section
/-! DEFINITION. The statements about RTTY-CORE, one `def Obligations.<Name> : Prop` each, from the numbered rules of spec/.
"Idle" below is ARB = Idle. -/

open Sys2Proof Sys2Proof.Machine

/-! Reset and stepping. -/

/-- R45: the value of every register after reset. -/
def Obligations.ResetGivesEveryRegisterItsValue : Prop :=
  State.reset.highHz = 2125 ∧ State.reset.lowHz = 2295 ∧ State.reset.baudC = 4545 ∧ State.reset.msgLen = 0
    ∧ State.reset.shift = .letters ∧ State.reset.planLen = 0 ∧ State.reset.planPos = 0 ∧ State.reset.holdCnt = 0
    ∧ State.reset.incHigh = 0 ∧ State.reset.incLow = 0 ∧ State.reset.holdTicks = 0 ∧ State.reset.acc = 0
    ∧ State.reset.inc = 0 ∧ State.reset.curSample = 0 ∧ State.reset.sentCnt = 0 ∧ State.reset.pbActive = false
    ∧ State.reset.pbDone = false ∧ State.reset.arb = .idle ∧ State.reset.ddsEn = true ∧ State.reset.pbEn = false
    ∧ State.reset.savedDdsEn = false ∧ State.reset.memCs = false

/-- R282, first sentence: the pins at reset, whatever the parameters. -/
def Obligations.PinsAtResetAreIdle : Prop :=
  ∀ cfg : Config, (State.resetWith cfg).pins =
    { cmdReady := true, rspValid := false, rspData := none, status := 0x08,
      dac := { csN := true, sck := false, sdi := false }, mem := { csN := true, sck := false, mosi := false } }

/-- R280, R281: `rst` between two steps gives every register its reset value; what is outside the block stays. That an
active chip-select released by `rst` shows as `MemDesel` is the model's reading (log 17). -/
def Obligations.RstAbandonsAnythingInProgress : Prop :=
  ∀ (s : State) (r : List Stimulus), s.stimuli = .rst :: r →
    step s = .next { State.resetWith s.cfg with
      xpos := s.xpos, xmem := s.xmem, xmemTail := s.xmemTail, bench := s.bench, stimuli := r, cuts := s.cuts,
      trace := if s.memCs then Event.memDesel :: s.trace else s.trace }

/-- R282, second sentence, R280: a `rst` within a step resets the block, and the transaction it meets is left incomplete on
the wire. A DDS tick's frame (50 line changes) emits `Dac` only if all are out, and the converter has sampled the bits
clocked out by then; a playback tick cut behind its frame has emitted `Dac` and not `MemRd`, and the device's position is
left open. How a reset falls between the line changes is the model's choice (log 22), that it emits `MemDesel` its reading
(log 17). -/
def Obligations.RstCutsTheTransactionUnderWay : Prop :=
  (∀ (s : State) (n : Nat) (r : List Stimulus), s.stimuli = .cut n :: r →
      ∃ u, step s = .next u ∧ u = { State.resetWith s.cfg with
        xmem := s.xmem, xmemTail := s.xmemTail, bench := s.bench, stimuli := u.stimuli, xpos := u.xpos, cuts := u.cuts,
        trace := u.trace, cutWave := u.cutWave })
  ∧ (∀ (s : State) (n : Nat), s.stimuli = [.cut n] → s.ddsEn = true → s.pbEn = false →
      ¬ (s.arb = .rttyActive ∧ s.holdCnt = 0) → ¬ (s.arb = .playbackActive ∧ s.pbDone = true) → s.memCs = false →
        let f := dacFrame s.cfg (sampleOf s.cfg (s.acc + s.inc))
        dacSampled DacLines.idle ((dacWave f).take n) = (bitsMsbFirst f).take (n / 3)
        ∧ step s = .next { State.resetWith s.cfg with
            xpos := s.xpos, xmem := s.xmem, xmemTail := s.xmemTail, bench := s.bench, cuts := s.cuts,
            trace := if n < 50 then s.trace else .dac f :: s.trace,
            cutWave := if n < 50 then ((dacWave f).take n).map .dac else [] })
  ∧ ∀ (s : State) (n : Nat), s.stimuli = [.cut n] → s.arb = .playbackActive → s.ddsEn = false → s.pbEn = true →
      s.pbDone = false → s.memCs = true → 50 < n → n < 66 →
        ∃ u, step s = .next u ∧ u.trace = .memDesel :: .dac (dacFrame s.cfg s.curSample) :: s.trace
          ∧ u.cutWave = (memReadWave.take (n - 50)).map .mem

/-- A step runs the decoded unit: the unit on its port, when it can be taken, is decoded with the block's parameters and
executed in that step, with the port emptied and the response port cleared before. For a command word this is R220; that
the units of the other formats stand on ports of a bench and are taken there at any step (a streamed byte in a playback) is
the model's choice (log 1). -/
def Obligations.StepRunsTheUnitOnThePort : Prop :=
  ∀ (s : State) (f : Format) (w : BitVec 32) (r : List Stimulus) (i : Instr),
    s.stimuli = .unit f w :: r → ¬ (s.ddsEn = true ∧ s.pbEn = true) → ready f s = true → decode s.cfg f w = .ok i →
      step s = exec i { s with stimuli := r, rspPort := none }

/-- In a playback a step runs the MEMBYTE fetched from the stream at XPOS (R181, R184). -/
def Obligations.StepRunsTheStreamedByte : Prop :=
  ∀ s : State, s.stimuli = [] → s.pbEn = true → s.ddsEn = false → s.arb = .playbackActive → s.pbDone = false →
    step s = exec (.membyte (s.xmemByte s.xpos)) { s with rspPort := none }

/-- A table word placed by `withFetchWord` is what the next step runs (the model's own interface, logs 3 and 4): a command
in Idle, a streamed byte in a playback, and any other unit in the state as it is but for a second enabled source. -/
def Obligations.PlacedWordsRunNext : Prop :=
  ∀ (s : State) (nbits w : Nat) (i : Instr), decodeTableWordOf s.cfg nbits w = some i →
    (i.format = .cmd32 →
      step (s.withFetchWord nbits w) = exec i { s with arb := .idle, pbEn := false, rspPort := none })
    ∧ (∀ b, i = .membyte b →
      step (s.withFetchWord nbits w) = exec i { s with
        xmem := Memory.write s.xmem s.xpos b, arb := .playbackActive, ddsEn := false, savedDdsEn := true, pbEn := true,
        pbActive := true, pbDone := false, memCs := true, rspPort := none })
    ∧ (i.format ≠ .cmd32 → i.format ≠ .memByte →
      step (s.withFetchWord nbits w) = exec i { s with pbEn := s.pbEn && !s.ddsEn, rspPort := none })

/-- R220, R208: a word offered while the block is busy is neither lost nor accepted: the step is the block's own and the
word stays on the port. So does a bench's streamed byte while no playback tick occurs, and no other unit waits; and with
nothing or a quiet entry at the head of the stimuli the step is the block's own (the model's choices, logs 1 and 2). -/
def Obligations.WaitingUnitsStayOnThePort : Prop :=
  (∀ (f : Format) (s : State),
      ready f s = false ↔ (f = .cmd32 ∧ s.arb ≠ .idle) ∨ (f = .memByte ∧ s.pbEn = false))
    ∧ (∀ (s : State) (f : Format) (w : BitVec 32) (r : List Stimulus), s.stimuli = .unit f w :: r → ready f s = false →
      ¬ (s.ddsEn = true ∧ s.pbEn = true) →
        step s = ownStep s.xmemByte { s with rspPort := none } ∧ ∃ t, step s = .next t ∧ t.stimuli = s.stimuli)
    ∧ (∀ s : State, s.stimuli = [] → step s = ownStep s.xmemByte { s with rspPort := none })
    ∧ ∀ (s : State) (r : List Stimulus), s.stimuli = .quiet :: r →
      step s = ownStep s.xmemByte { s with stimuli := r, rspPort := none }

/-- 00_scope.md R6, 20_memory.md R65: no step writes the parameters or the supplied memory; a step reads the memory at XPOS
alone, as any total function; and a run of the machine is the run under the memory its state describes. -/
def Obligations.RunsUseTheSuppliedParametersAndMemory : Prop :=
  (∀ (mem : Nat → Byte) (s t : State), stepOn mem s = .next t → t.cfg = s.cfg ∧ t.xmem = s.xmem ∧ t.xmemTail = s.xmemTail)
    ∧ (∀ (mem mem' : Nat → Byte) (s : State), mem s.xpos = mem' s.xpos → stepOn mem s = stepOn mem' s)
    ∧ ∀ (n : Nat) (s : State), stepN n s = stepNOn s.xmemByte n s

/-! Encodings. -/

/-- Decode and encode agree on every well-formed unit of every format, for every lawful pair of code tables. -/
def Obligations.DecodeOfEncodeIsTheUnit : Prop :=
  ∀ (cfg : Config) (i : Instr), tablesLawful cfg = true → i.wellFormed cfg = true →
    decode cfg i.format (encode cfg i) = .ok i

/-- Every decoded unit is well formed and encodes to a word of the same meaning; outside CMD32, where bits are ignored
(R92, R94), it encodes to the very word. -/
def Obligations.DecodedUnitsEncodeBack : Prop :=
  ∀ (cfg : Config) (f : Format) (w : BitVec 32) (i : Instr), tablesLawful cfg = true → decode cfg f w = .ok i →
    i.wellFormed cfg = true ∧ decode cfg f (encode cfg i) = .ok i ∧ (f ≠ .cmd32 → encode cfg i = w)

/-- R94 (a), (b), R220: the command port decodes every 32-bit word, and bits 27:16 never matter. -/
def Obligations.EveryCommandWordDecodes : Prop :=
  ∀ (cfg : Config) (op : BitVec 4) (res : BitVec 12) (arg : BitVec 16),
    ∃ i : Instr, decode cfg .cmd32 (op ++ res ++ arg) = .ok i ∧ decode cfg .cmd32 (op ++ (0 : BitVec 12) ++ arg) = .ok i

/-- Words written out from the encoding tables and test vectors (95_test_vectors.md H, 30_encoding.md R95, R98, R99). -/
def Obligations.SpelledOutWordsDecode : Prop :=
  decode Config.std .cmd32 0x2000AB49 = .ok (.msgput 0x49) ∧ decode Config.std .cmd32 0x500003E8 = .ok (.sethi 1000)
    ∧ decode Config.std .cmd32 0x70001388 = .ok (.setbaud 5000) ∧ decode Config.std .cmd32 0x2FFF0041 = .ok (.msgput 0x41)
    ∧ decode Config.std .cmd32 0xE000FFFF = .ok .reservedE ∧ decode Config.std .rsp32 0x0000084D = .ok (.rsp 2125)
    ∧ decode Config.std .status8 0x32 = .ok (.status false true true false false 2) ∧ decode Config.std .sym8 0b00010111 = .ok (.sym 0x14)
    ∧ decode Config.std .sym8 0b00001011 = .ok .symCr ∧ decode Config.std .dac16 0x3960 = .ok (.dacframe 150)
    ∧ decode Config.std .mem32 0x03000000 = .ok .memcmd ∧ decode Config.std .memByte 0xFF = .ok (.membyte 0xFF)
    ∧ decode Config.std (.b5 .letters) 0x01 = .ok .ltrsE ∧ decode Config.std (.b5 .figures) 0x01 = .ok .figs3
    ∧ decode Config.std (.b5 .figures) 0x1B = .ok .codeFigs ∧ decode Config.std (.b5 .figures) 0x0D = .error .codeUnassigned

/-! Every unit. -/

/-- R250: no instruction stops: each of them, with any operands, in any state, answers a next state, and leaves ACC alone
(R47: the phase accumulator is the DDS tick's). -/
def Obligations.EveryInstructionCompletes : Prop :=
  ∀ (i : Instr) (s : State), ∃ t, exec i s = .next t ∧ t.acc = s.acc

/-! Host commands. -/

/-- R232: NOP, any operand, is accepted with no effect and no response. -/
def Obligations.NopHasNoEffect : Prop :=
  (∀ (cfg : Config) (res : BitVec 12) (arg : BitVec 16), decode cfg .cmd32 ((0x0 : BitVec 4) ++ res ++ arg) = .ok .nop)
    ∧ ∀ s : State, exec .nop s = .next s

/-- R233: the reserved opcodes 0xC to 0xF are accepted with no effect and no response. -/
def Obligations.ReservedOpcodesHaveNoEffect : Prop :=
  (∀ (cfg : Config) (res : BitVec 12) (arg : BitVec 16),
      decode cfg .cmd32 ((0xC : BitVec 4) ++ res ++ arg) = .ok .reservedC
      ∧ decode cfg .cmd32 ((0xD : BitVec 4) ++ res ++ arg) = .ok .reservedD
      ∧ decode cfg .cmd32 ((0xE : BitVec 4) ++ res ++ arg) = .ok .reservedE
      ∧ decode cfg .cmd32 ((0xF : BitVec 4) ++ res ++ arg) = .ok .reservedF)
    ∧ ∀ s : State, exec .reservedC s = .next s ∧ exec .reservedD s = .next s ∧ exec .reservedE s = .next s
      ∧ exec .reservedF s = .next s

/-- R208 has a command wait on its port while the block is busy; that `exec` of a command, which `step` never asks for
then, answers the state unchanged is the model's choice (log 15). -/
def Obligations.BusyBlockTakesNoCommand : Prop :=
  ∀ (i : Instr) (s : State), s.arb ≠ .idle → i.format = .cmd32 → exec i s = .next s

/-- R221: MSGCLR empties the message buffer; the cells keep their contents and nothing else changes. -/
def Obligations.MsgclrEmptiesTheMessage : Prop :=
  (∀ (cfg : Config) (res : BitVec 12) (arg : BitVec 16), decode cfg .cmd32 ((0x1 : BitVec 4) ++ res ++ arg) = .ok .msgclr)
    ∧ ∀ s : State, s.arb = .idle → exec .msgclr s = .next { s with msgLen := 0 }

/-- R222: MSGPUT appends `arg[7:0]`, or changes nothing in a full buffer (MSG_MAX cells, 256 by default). Every other cell
of MSG reads as before. -/
def Obligations.MsgputAppendsOneCharacter : Prop :=
  Config.std.msgMax = 256
    ∧ (∀ (cfg : Config) (res : BitVec 12) (arg : BitVec 16),
      decode cfg .cmd32 ((0x2 : BitVec 4) ++ res ++ arg) = .ok (.msgput (arg.extractLsb' 0 8)))
    ∧ ∀ (c : BitVec 8) (s : State), s.arb = .idle → paramsLawful s.cfg = true →
      (s.cfg.msgMax ≤ s.msgLen.toNat → exec (.msgput c) s = .next s)
      ∧ (s.msgLen.toNat < s.cfg.msgMax → ∃ t, exec (.msgput c) s = .next t
          ∧ t = { s with msg := t.msg, msgLen := s.msgLen + 1 } ∧ t.msgLen.toNat = s.msgLen.toNat + 1
          ∧ t.msgChar s.msgLen.toNat = c
          ∧ ∀ a, a ≠ s.msgLen.toNat → Memory.read t.msg a = Memory.read s.msg a)

/-- R104 (SENDTEXT without its SEND), R221, R222: clearing and putting a text that fits leaves exactly that text. -/
def Obligations.LoadedMessageIsTheText : Prop :=
  ∀ (text : List Byte) (s : State), s.arb = .idle → paramsLawful s.cfg = true → text.length ≤ s.cfg.msgMax →
    ∃ t, execAll (.msgclr :: text.map Instr.msgput) s = .next t ∧ t.message = text
      ∧ t = { s with msg := t.msg, msgLen := t.msgLen }

/-- R225 to R228: the tone registers are written as given, SETBAUD 0 has no effect, RSTTONE restores the defaults. -/
def Obligations.ToneCommandsWriteTheirRegisters : Prop :=
  (∀ (cfg : Config) (res : BitVec 12) (arg : BitVec 16),
      decode cfg .cmd32 ((0x5 : BitVec 4) ++ res ++ arg) = .ok (.sethi arg)
      ∧ decode cfg .cmd32 ((0x6 : BitVec 4) ++ res ++ arg) = .ok (.setlo arg)
      ∧ decode cfg .cmd32 ((0x7 : BitVec 4) ++ res ++ arg) = .ok (.setbaud arg)
      ∧ decode cfg .cmd32 ((0x8 : BitVec 4) ++ res ++ arg) = .ok .rsttone)
    ∧ ∀ (v : BitVec 16) (s : State), s.arb = .idle →
      exec (.sethi v) s = .next { s with highHz := v } ∧ exec (.setlo v) s = .next { s with lowHz := v }
      ∧ (v ≠ 0 → exec (.setbaud v) s = .next { s with baudC := v }) ∧ (v = 0 → exec (.setbaud v) s = .next s)
      ∧ exec .rsttone s =
        .next { s with highHz := s.cfg.defHighHz, lowHz := s.cfg.defLowHz, baudC := s.cfg.defBaudC }
      ∧ Config.std.defHighHz = 2125 ∧ Config.std.defLowHz = 2295 ∧ Config.std.defBaudC = 4545

/-- R229 to R231, R102: a GET command presents its register zero-extended and emits `Rsp`; no register changes. -/
def Obligations.GetCommandsRespond : Prop :=
  (∀ (cfg : Config) (res : BitVec 12) (arg : BitVec 16),
      decode cfg .cmd32 ((0x9 : BitVec 4) ++ res ++ arg) = .ok .gethi
      ∧ decode cfg .cmd32 ((0xA : BitVec 4) ++ res ++ arg) = .ok .getlo
      ∧ decode cfg .cmd32 ((0xB : BitVec 4) ++ res ++ arg) = .ok .getbaud)
    ∧ ∀ s : State, s.arb = .idle →
      exec .gethi s = .next { s with rspPort := some (s.highHz.setWidth 32), trace := .rsp (s.highHz.setWidth 32) :: s.trace }
      ∧ exec .getlo s = .next { s with rspPort := some (s.lowHz.setWidth 32), trace := .rsp (s.lowHz.setWidth 32) :: s.trace }
      ∧ exec .getbaud s = .next { s with rspPort := some (s.baudC.setWidth 32), trace := .rsp (s.baudC.setWidth 32) :: s.trace }

/-- R92, R93, R223, R165, R163: every word of opcode 3 is SEND; it takes the snapshot of the tone registers, starts at the
first plan bit (a start bit, so the low tone), and writes nothing but ARB, the plan, SHIFT and the sequencer's registers.
MSG keeps every cell. -/
def Obligations.SendStartsATransmission : Prop :=
  (∀ (cfg : Config) (res : BitVec 12) (arg : BitVec 16), decode cfg .cmd32 ((0x3 : BitVec 4) ++ res ++ arg) = .ok .send)
    ∧ ∀ s : State, s.arb = .idle → paramsLawful s.cfg = true → s.msgLen.toNat ≤ s.cfg.msgMax →
      ∃ t, exec .send s = .next t ∧ t.arb = .rttyActive ∧ t.planPos = 0 ∧ 24 ≤ t.planLen.toNat
        ∧ t.incHigh = phaseInc s.cfg s.highHz ∧ t.incLow = phaseInc s.cfg s.lowHz
        ∧ t.holdTicks = holdTicksOf s.cfg s.baudC ∧ t.holdCnt = t.holdTicks
        ∧ t.planBit 0 = false ∧ t.inc = t.incLow
        ∧ t = { s with arb := t.arb, shift := t.shift, plan := t.plan, planLen := t.planLen, planPos := t.planPos,
                       incHigh := t.incHigh, incLow := t.incLow, holdTicks := t.holdTicks, inc := t.inc,
                       holdCnt := t.holdCnt }

/-- R147: the plan SEND builds is the preamble, the initial shift symbol and the text's symbols, each framed, and SHIFT is
the state after the last of them; the cells of PLAN past the new plan read as before. -/
def Obligations.SendBuildsThePlanOfTheMessage : Prop :=
  ∀ s : State, s.arb = .idle → paramsLawful s.cfg = true → s.msgLen.toNat ≤ s.cfg.msgMax →
    ∃ t, exec .send s = .next t ∧ t.planBits = framedBits (planCodes s.cfg s.message)
      ∧ t.planLen.toNat = 8 * (planCodes s.cfg s.message).length
      ∧ t.shift = (textCodes s.cfg (initialShift s.cfg s.message) s.message).2
      ∧ (∀ a, t.planLen.toNat ≤ a → Memory.read t.plan a = Memory.read s.plan a)
      ∧ ∀ a, Memory.read t.msg a = Memory.read s.msg a

/-- R202, R180: PLAY saves and clears DDS_EN, creates the cursor, selects the device, sends the header, enables the
playback source, and changes nothing else. -/
def Obligations.PlayStartsAPlayback : Prop :=
  (∀ (cfg : Config) (res : BitVec 12) (arg : BitVec 16), decode cfg .cmd32 ((0x4 : BitVec 4) ++ res ++ arg) = .ok .play)
    ∧ ∀ s : State, s.arb = .idle →
      exec .play s = .next { s with
        arb := .playbackActive, savedDdsEn := s.ddsEn, ddsEn := false, curSample := 0, sentCnt := 0, pbActive := true,
        pbDone := false, memCs := true, xpos := 0, pbEn := true,
        trace := .memCmd (s.cfg.memOpcode ++ s.cfg.memStart) :: .memSel :: s.trace }

/-- R103, R104, R220, R222, R223: a host that offers the words of SENDTEXT to an idle block starts the transmission of
exactly that text, one step a word. -/
def Obligations.OfferedTextIsTransmitted : Prop :=
  ∀ (text : List Byte) (s : State), StateInv s → s.arb = .idle → text.length ≤ s.cfg.msgMax →
    s.stimuli = offers s.cfg (sendText text) →
    ∃ t, stepN (text.length + 2) s = .next t ∧ t.arb = .rttyActive ∧ t.stimuli = [] ∧ t.message = text
      ∧ t.planBits = framedBits (planCodes s.cfg text) ∧ t.trace = s.trace

/-! The units of the other formats. -/

/-- The rows RSP (R102), DACFRAME (R98) and MEMCMD (R99, R65) as units of a bench: the response, the frame or the header is
sent on the bench's own buses, and nothing of the block changes; a read of STATUS (R42) changes nothing. That these rows
are units a bench runs apart from the block is the model's choice (log 1), that STATUS is a read its reading (log 20). -/
def Obligations.BusUnitsAreSentOnTheBench : Prop :=
  ∀ s : State,
    (∀ v : BitVec 16, exec (.rsp v) s =
        .next { s with bench := { s.bench with events := .rsp (v.setWidth 32) :: s.bench.events } })
    ∧ (∀ (d a p e sh : Bool) (k : BitVec 2), exec (.status d a p e sh k) s = .next s)
    ∧ (∀ x : BitVec 8, exec (.dacframe x) s =
        .next { s with bench := { s.bench with events := .dac (s.cfg.dacCfg ++ x ++ (0 : BitVec 4)) :: s.bench.events } })
    ∧ exec .memcmd s =
        .next { s with bench := { s.bench with
          xpos := 0, events := .memCmd (s.cfg.memOpcode ++ s.cfg.memStart) :: s.bench.events } }

/-- R181, R182, R183: a streamed byte is taken by the playback tick: the buffered sample is emitted first, the byte
buffered, the sentinel run counted, and the playback ended in the tick that completes the run (with SENT_THRESH = 250 by
default, the 250th byte 0xFF). That with PB_EN = 0 the row changes nothing is the model's (log 19). -/
def Obligations.StreamedByteIsOnePlaybackTick : Prop :=
  ∀ (b : BitVec 8) (s : State), paramsLawful s.cfg = true →
    (s.pbEn = false → exec (.membyte b) s = .next s)
    ∧ (s.pbEn = true → b ≠ 0xFF → exec (.membyte b) s = .next { s with
        curSample := b, sentCnt := 0, xpos := s.xpos + 1,
        trace := .memRd b :: .dac (s.cfg.dacCfg ++ s.curSample ++ (0 : BitVec 4)) :: s.trace })
    ∧ (s.pbEn = true → b = 0xFF → s.sentCnt + 1 < s.cfg.sentThresh → exec (.membyte b) s = .next { s with
        curSample := 0xFF, sentCnt := s.sentCnt + 1, xpos := s.xpos + 1,
        trace := .memRd 0xFF :: .dac (s.cfg.dacCfg ++ s.curSample ++ (0 : BitVec 4)) :: s.trace })
    ∧ (s.pbEn = true → b = 0xFF → s.cfg.sentThresh ≤ s.sentCnt + 1 → exec (.membyte b) s = .next { s with
        curSample := 0, sentCnt := 0, xpos := s.xpos + 1, memCs := false, pbEn := false, pbActive := false, pbDone := true,
        trace := .memDesel :: .memRd 0xFF :: .dac (s.cfg.dacCfg ++ s.curSample ++ (0 : BitVec 4)) :: s.trace })

/-- R95, R143, R144, R146: each framed-symbol row appends the eight bits of its code to a plan and writes nothing else. That
the plan is the bench's, so that nothing of the block changes, is the model's choice (log 1), and so is the dropping of a
symbol that would pass PLAN_MAX (log 14). -/
def Obligations.SymbolRowsAppendTheirFrame : Prop :=
  entryCode Config.std .letters 0x0D = 0x08 ∧ entryCode Config.std .letters 0x0A = 0x02
    ∧ Config.std.codeLtrs = 0x1F ∧ Config.std.codeFigs = 0x1B
    ∧ ∀ (k : Code) (s : State), paramsLawful s.cfg = true →
      ∀ p ∈ [(Instr.sym k, k), (.symCr, entryCode s.cfg .letters 0x0D), (.symLf, entryCode s.cfg .letters 0x0A),
          (.symLtrs, s.cfg.codeLtrs), (.symFigs, s.cfg.codeFigs)],
        let f := s.bench.framer
        (s.cfg.planMax < f.planLen.toNat + 8 → exec p.1 s = .next s)
        ∧ (f.planLen.toNat + 8 ≤ s.cfg.planMax → ∃ g : Framer,
            exec p.1 s = .next { s with bench := { s.bench with framer := g } }
            ∧ g.bits = f.bits ++ frame p.2 ∧ g.planLen = f.planLen + 8 ∧ g.shift = f.shift
            ∧ ∀ a, (a < f.planLen.toNat ∨ f.planLen.toNat + 8 ≤ a) → Memory.read g.plan a = Memory.read f.plan a)

/-- The rows LTRS and FIGS with their table active (R121, R122, R145: the character "hits the current table"): each appends
the frame of its code and nothing else. That a bare code row runs the per-character rule, and does so on the bench's framer
alone, is the model's choice (logs 1 and 23). -/
def Obligations.CodeRowsInTheActiveTable : Prop :=
  ∀ (i : Instr) (t : Shift) (s : State), paramsLawful s.cfg = true → i.wellFormed s.cfg = true → i.format = .b5 t →
    i ≠ .codeLtrs → i ≠ .codeFigs →
      let f := s.bench.framer
      f.shift = t → f.planLen.toNat + 8 ≤ s.cfg.planMax →
        ∃ g : Framer, exec i s = .next { s with bench := { s.bench with framer := g } }
          ∧ g.bits = f.bits ++ frame ((encode s.cfg i).setWidth 5) ∧ g.planLen = f.planLen + 8 ∧ g.shift = f.shift
          ∧ ∀ a, (a < f.planLen.toNat ∨ f.planLen.toNat + 8 ≤ a) → Memory.read g.plan a = Memory.read f.plan a

/-- The rows LTRS and FIGS with the other table active (R145, R123): a row of CR, LF or space still costs no shift; every
other row first switches the shift state and appends the new state's shift symbol. That a bare code row runs the
per-character rule, and does so on the bench's framer alone, is the model's choice (logs 1 and 23). -/
def Obligations.CodeRowsInTheOtherTable : Prop :=
  ∀ (i : Instr) (t : Shift) (s : State), paramsLawful s.cfg = true → i.wellFormed s.cfg = true → i.format = .b5 t →
    i ≠ .codeLtrs → i ≠ .codeFigs →
      let f := s.bench.framer
      f.shift = t.other →
        if i ∈ sharedRows then
          f.planLen.toNat + 8 ≤ s.cfg.planMax →
            ∃ g : Framer, exec i s = .next { s with bench := { s.bench with framer := g } }
              ∧ g.bits = f.bits ++ frame ((encode s.cfg i).setWidth 5) ∧ g.planLen = f.planLen + 8 ∧ g.shift = f.shift
              ∧ ∀ a, (a < f.planLen.toNat ∨ f.planLen.toNat + 8 ≤ a) → Memory.read g.plan a = Memory.read f.plan a
        else
          f.planLen.toNat + 16 ≤ s.cfg.planMax →
            ∃ g : Framer, exec i s = .next { s with bench := { s.bench with framer := g } }
              ∧ g.bits = f.bits ++ frame (shiftCode s.cfg t) ++ frame ((encode s.cfg i).setWidth 5)
              ∧ g.planLen = f.planLen + 16 ∧ g.shift = t
              ∧ ∀ a, (a < f.planLen.toNat ∨ f.planLen.toNat + 16 ≤ a) → Memory.read g.plan a = Memory.read f.plan a

/-- The model's choice for the code rows in a bench plan with too little room (logs 1 and 14): a symbol that would pass
PLAN_MAX is dropped, while the shift state still follows the per-character rule. -/
def Obligations.CodeRowsPastTheEndOfThePlan : Prop :=
  (∀ (i : Instr) (t : Shift) (s : State), paramsLawful s.cfg = true → i.wellFormed s.cfg = true → i.format = .b5 t →
      i ≠ .codeLtrs → i ≠ .codeFigs →
        let f := s.bench.framer
        (s.cfg.planMax < f.planLen.toNat + 8 → f.shift = t → exec i s = .next s)
        ∧ (s.cfg.planMax < f.planLen.toNat + 8 → f.shift = t.other → exec i s =
            .next (if i ∈ sharedRows then s else { s with bench := { s.bench with framer := { f with shift := t } } }))
        ∧ (f.planLen.toNat + 8 ≤ s.cfg.planMax → s.cfg.planMax < f.planLen.toNat + 16 → f.shift = t.other →
            i ∉ sharedRows →
            ∃ g : Framer, exec i s = .next { s with bench := { s.bench with framer := g } }
              ∧ g.bits = f.bits ++ frame (shiftCode s.cfg t) ∧ g.planLen = f.planLen + 8 ∧ g.shift = t
              ∧ ∀ a, (a < f.planLen.toNat ∨ f.planLen.toNat + 8 ≤ a) → Memory.read g.plan a = Memory.read f.plan a))
    ∧ ∀ s : State, s.cfg.planMax < s.bench.framer.planLen.toNat + 8 →
      exec .codeLtrs s =
          .next { s with bench := { s.bench with framer := { s.bench.framer with shift := .letters } } }
      ∧ exec .codeFigs s =
          .next { s with bench := { s.bench with framer := { s.bench.framer with shift := .figures } } }

/-- The model's choice for the rows CODE_LTRS and CODE_FIGS (logs 1 and 18; R124 and R145 give the codes and when BUILDPLAN
sends them): on the bench's framer such a row switches the shift state to its table and appends the framed shift code. -/
def Obligations.ShiftCodeRowsSwitchTheTable : Prop :=
  ∀ s : State, paramsLawful s.cfg = true →
    let f := s.bench.framer
    f.planLen.toNat + 8 ≤ s.cfg.planMax →
      ∀ p ∈ [(Instr.codeLtrs, Shift.letters, s.cfg.codeLtrs), (.codeFigs, .figures, s.cfg.codeFigs)],
        ∃ g : Framer, exec p.1 s = .next { s with bench := { s.bench with framer := g } }
          ∧ g.bits = f.bits ++ frame p.2.2 ∧ g.planLen = f.planLen + 8 ∧ g.shift = p.2.1
          ∧ ∀ a, (a < f.planLen.toNat ∨ f.planLen.toNat + 8 ≤ a) → Memory.read g.plan a = Memory.read f.plan a

/-! The codec and the plan. -/

/-- R125: the table invariants, of the default tables and of the US-TTY instantiation (93_implementation_defined.md G2). -/
def Obligations.CodeTablesAreLawful : Prop :=
  paramsLawful Config.std = true ∧ paramsLawful Config.usTty = true

/-- R120, R124, R125 (a), (e), R130: in every lawful pair of tables LOOKUP and the table are inverse to each other, and
LOOKUP never returns a shift code; with the default tables it never returns code 0x00 either. -/
def Obligations.LookupInvertsTheTable : Prop :=
  ∀ (cfg : Config) (c : Byte) (t : Shift) (k : Code), tablesLawful cfg = true →
    (lookup cfg c t = some k ↔ tableAt cfg t k = some c)
    ∧ (lookup cfg c t = some k → k ≠ cfg.codeLtrs ∧ k ≠ cfg.codeFigs)
    ∧ lookup Config.std c t ≠ some 0x00

/-- R152 property 1, R143, R144: every plan begins with the framed CR and LF and the shift symbol of the initial state. -/
def Obligations.PlansBeginWithThePreamble : Prop :=
  (∀ (cfg : Config) (text : List Byte), tablesLawful cfg = true → ∃ rest : List Bool,
      framedBits (planCodes cfg text) =
        frame (entryCode cfg .letters 0x0D) ++ frame (entryCode cfg .letters 0x0A)
          ++ frame (shiftCode cfg (initialShift cfg text)) ++ rest)
    ∧ frame (entryCode Config.std .letters 0x0D) = [false, false, false, false, true, false, true, true]
    ∧ frame (entryCode Config.std .letters 0x0A) = [false, false, true, false, false, false, true, true]

/-- R148: PLAN_LEN = 8 (3 + n_enc + n_shift) with n_shift at most n_enc, at most 8 (2 + 2 MSG_LEN) for a message that is
not empty. -/
def Obligations.PlanLengthCountsCharactersAndShifts : Prop :=
  ∀ (cfg : Config) (text : List Byte), tablesLawful cfg = true →
    let shifts := shiftCount cfg (textCodes cfg (initialShift cfg text) text).1
    (planCodes cfg text).length = 3 + encodableCount cfg text + shifts
      ∧ shifts ≤ encodableCount cfg text
      ∧ (text ≠ [] → (planCodes cfg text).length ≤ 2 + 2 * text.length)

/-- R152 property 3: a Letters-only message, and a Figures-only message whose first character is not shared, has no
mid-message shift. -/
def Obligations.OneTableMessagesNeedOneShift : Prop :=
  ∀ (cfg : Config) (text : List Byte), tablesLawful cfg = true → text ≠ [] →
    ((∀ c ∈ text, (lookup cfg c .letters).isSome = true)
      ∨ ((∀ c ∈ text, (lookup cfg c .figures).isSome = true)
          ∧ ∃ c rest, text = c :: rest ∧ lookup cfg c .letters = none)) →
      shiftCount cfg (textCodes cfg (initialShift cfg text) text).1 = 0

/-- R152 property 5: no two shift symbols follow one another within the text of a plan. -/
def Obligations.TextNeverShiftsTwiceInARow : Prop :=
  ∀ (cfg : Config) (t : Shift) (text : List Byte) (xs ys : List Code) (a b : Code), tablesLawful cfg = true →
    (textCodes cfg t text).1 = xs ++ a :: b :: ys →
      ¬ ((a = cfg.codeLtrs ∨ a = cfg.codeFigs) ∧ (b = cfg.codeLtrs ∨ b = cfg.codeFigs))

/-- R152 property 4: the round trip. A receiver starting in any shift state reads CR, LF and the message without its
unencodable characters. -/
def Obligations.ReceiverRecoversTheMessage : Prop :=
  ∀ (cfg : Config) (t : Shift) (text : List Byte), tablesLawful cfg = true →
    receive cfg t (framedBits (planCodes cfg text)) =
      some (0x0D :: 0x0A :: text.filter (fun c => !unencodable cfg c))

/-! The synthesizer. -/

/-- R161: one DDS tick. -/
def Obligations.DdsTickAdvancesThePhase : Prop :=
  ∀ (mem : Nat → Byte) (s : State), s.ddsEn = true → s.pbEn = false → ¬ (s.arb = .rttyActive ∧ s.holdCnt = 0) →
    ¬ (s.arb = .playbackActive ∧ s.pbDone = true) →
      ownStep mem s = .next { s with
        acc := s.acc + s.inc,
        trace := .dac (s.cfg.dacCfg ++ sineAt s.cfg ((s.acc + s.inc).extractLsb' 24 8) ++ (0 : BitVec 4)) :: s.trace,
        holdCnt := if s.arb = .rttyActive ∧ s.holdCnt ≠ 0 then s.holdCnt - 1 else s.holdCnt }

/-- R168, R169: an idle tick emits the frame of `SINE[ACC[31:24]]` and changes no register. -/
def Obligations.IdleTicksChangeNoRegister : Prop :=
  ∀ s : State, s.arb = .idle → s.inc = 0 → s.ddsEn = true → s.pbEn = false → s.stimuli = [] →
    step s = .next { s with
      trace := .dac (dacFrame s.cfg (sampleOf s.cfg s.acc)) :: s.trace, rspPort := none }

/-- R166, R163, R167: BIT_ADVANCE past the last bit ends the transmission in silence; before it the next bit's tone and a
full hold are set. -/
def Obligations.BitAdvanceKeysTheNextBit : Prop :=
  ∀ (mem : Nat → Byte) (s : State), s.arb = .rttyActive → s.holdCnt = 0 → ¬ (s.ddsEn = true ∧ s.pbEn = true) →
    (s.planPos + 1 = s.planLen → ownStep mem s = .next { s with planPos := s.planPos + 1, inc := 0, arb := .idle })
    ∧ (s.planPos + 1 ≠ s.planLen → ownStep mem s = .next { s with
        planPos := s.planPos + 1, holdCnt := s.holdTicks,
        inc := if s.planBit (s.planPos + 1).toNat then s.incHigh else s.incLow })

/-- R162, R174: the increment is the nearest to the frequency, an error of at most half a quantisation step, for every
frequency below F_DDS (every 16-bit one by default). -/
def Obligations.IncrementIsNearestToTheFrequency : Prop :=
  ∀ (cfg : Config) (f : BitVec 16), paramsLawful cfg = true → f.toNat < cfg.fDds →
    2 * (phaseInc cfg f).toNat * cfg.fDds ≤ 2 * f.toNat * 2 ^ 32 + cfg.fDds
      ∧ 2 * f.toNat * 2 ^ 32 ≤ 2 * (phaseInc cfg f).toNat * cfg.fDds + cfg.fDds

/-- R164, R292: for every baud rate that is not 0 the hold is the rounded number of ticks, and by default from 122 to
8000000. -/
def Obligations.HoldIsNearestToTheBitInterval : Prop :=
  ∀ (cfg : Config) (b : BitVec 16), paramsLawful cfg = true → b ≠ 0 →
    (holdTicksOf cfg b).toNat = (2 * 100 * cfg.fDds + b.toNat) / (2 * b.toNat)
      ∧ 122 ≤ (holdTicksOf Config.std b).toNat ∧ (holdTicksOf Config.std b).toNat ≤ 8000000

/-- R64: the checks the spec gives on the sine table. -/
def Obligations.SineTableChecks : Prop :=
  Config.std.sine.flatten.length = 256 ∧ (Config.std.sine.flatten.map BitVec.toNat).sum = 32768
    ∧ sineAt Config.std 0 = 128 ∧ sineAt Config.std 64 = 255 ∧ sineAt Config.std 128 = 128 ∧ sineAt Config.std 192 = 1
    ∧ (∀ x ∈ Config.std.sine.flatten, 1 ≤ x.toNat ∧ x.toNat ≤ 255)
    ∧ ∀ i < 256, sineAt Config.std (BitVec.ofNat 8 i) = Config.std.sine.flatten.getD i 0
      ∧ (sineAt Config.std (BitVec.ofNat 8 i)).toNat + (sineAt Config.std (BitVec.ofNat 8 (i + 128))).toNat = 256
      ∧ sineAt Config.std (BitVec.ofNat 8 i) = sineAt Config.std (BitVec.ofNat 8 (128 + 256 - i))

/-- R173, R171: the shape of a transmission. From a SEND on, with the outside quiet, PLAN_LEN (HOLD_TICKS + 1) steps emit
exactly PLAN_LEN HOLD_TICKS converter frames, leave ACC at the sum of the keyed increments, and end in Idle. -/
def Obligations.TransmissionKeysEveryBitAndEnds : Prop :=
  ∀ s t : State, StateInv s → s.arb = .idle → s.stimuli = [] → exec .send s = .next t →
    ∃ u, stepN (t.planLen.toNat * (t.holdTicks.toNat + 1)) t = .next u ∧ u.arb = .idle ∧ u.inc = 0
      ∧ u.planPos = u.planLen ∧ u.planBits = t.planBits ∧ u.planLen = t.planLen ∧ u.ddsEn = true
      ∧ u.acc = s.acc + BitVec.ofNat 32 (t.holdTicks.toNat
          * (t.planBits.count true * t.incHigh.toNat + t.planBits.count false * t.incLow.toNat))
      ∧ ∃ es, u.trace = es ++ s.trace ∧ es.length = t.planLen.toNat * t.holdTicks.toNat
          ∧ ∀ e ∈ es, ∃ f, e = Event.dac f

/-- R149, R151, R79, R289: no step but an accepted SEND or a reset writes PLAN, PLAN_LEN, SHIFT or the snapshot, whatever is
offered; and while a transmission runs none writes the message or the tone registers either. -/
def Obligations.PlanShiftAndSnapshotAreSendsAlone : Prop :=
  ∀ s t : State, step s = .next t → s.stimuli.head? ≠ some .rst → (∀ n, s.stimuli.head? ≠ some (.cut n)) →
    ((t.plan = s.plan ∧ t.planLen = s.planLen ∧ t.shift = s.shift ∧ t.incHigh = s.incHigh ∧ t.incLow = s.incLow
        ∧ t.holdTicks = s.holdTicks)
      ∨ (s.arb = .idle ∧ ∃ w r, s.stimuli = .unit .cmd32 w :: r ∧ decode s.cfg .cmd32 w = .ok .send))
    ∧ (s.arb = .rttyActive → t.msg = s.msg ∧ t.msgLen = s.msgLen ∧ t.highHz = s.highHz ∧ t.lowHz = s.lowHz
        ∧ t.baudC = s.baudC)

/-! Playback. -/

/-- R204: PLAY_COMPLETE restores the saved enable and returns to Idle. -/
def Obligations.PlayCompleteRestoresTheSource : Prop :=
  ∀ (mem : Nat → Byte) (s : State), s.arb = .playbackActive → s.pbDone = true → ¬ (s.ddsEn = true ∧ s.pbEn = true) →
    ownStep mem s = .next { s with ddsEn := s.savedDdsEn, arb := .idle }

/-- R187: between the creation and the end of the cursor only PB_TICK touches CUR_SAMPLE, SENT_CNT, the memory link and the
converter: whatever is offered, a step that is not a reset is one playback tick, for some byte the device answers, or
leaves them as they are. -/
def Obligations.OnlyTheTickTouchesThePlayback : Prop :=
  ∀ s t : State, StateInv s → s.pbActive = true → step s = .next t → s.stimuli.head? ≠ some .rst →
    (∀ n, s.stimuli.head? ≠ some (.cut n)) →
      (∃ (b : Byte) (r : List Stimulus), t = pbTick b { s with stimuli := r, rspPort := none })
      ∨ (t.curSample = s.curSample ∧ t.sentCnt = s.sentCnt ∧ t.memCs = s.memCs ∧ t.xpos = s.xpos ∧ t.trace = s.trace)

/-- R189, R183, R210: whatever the external memory holds, if the first run of SENT_THRESH sentinel bytes ends at stream byte
`e`, a PLAY is over after `e + 1` ticks and PLAY_COMPLETE: it emitted 0 and the bytes before `e`, read the bytes up to `e`,
and left everything else as it was, DDS_EN included. -/
def Obligations.PlaybackEndsAtTheSentinelRun : Prop :=
  ∀ (mem : Nat → Byte) (s t : State) (e : Nat), StateInv s → s.arb = .idle → s.stimuli = [] → runEndsAt s.cfg mem e →
    exec .play s = .next t →
      stepNOn mem (e + 2) t = .next { s with
        curSample := 0, sentCnt := 0, pbDone := true, savedDdsEn := s.ddsEn, xpos := e + 1, rspPort := none,
        trace := .memDesel :: playbackEvents s.cfg mem (e + 1) ++ .memCmd (memHeader s.cfg) :: .memSel :: s.trace }

/-- R186, R288: whatever the external memory holds, as long as the bytes read hold no run of SENT_THRESH sentinel bytes a
playback goes on, a byte a tick: `n` steps after PLAY, for every such `n`, it is still in progress at stream byte `n`. So
with no run anywhere it never ends. -/
def Obligations.PlaybackGoesOnUntilARun : Prop :=
  ∀ (mem : Nat → Byte) (s t : State) (n : Nat), StateInv s → s.arb = .idle → s.stimuli = [] →
    (∀ i, i ≤ n → sentinelRun s.cfg mem i < s.cfg.sentThresh) → exec .play s = .next t →
      ∃ u, stepNOn mem n t = .next u ∧ u.arb = .playbackActive ∧ u.pbEn = true ∧ u.xpos = n

/-! The whole machine. -/

/-- R46 at reset. -/
def Obligations.InvariantsHoldAtReset : Prop := StateInv State.reset

/-- R46 after every step, from every state that has them, whatever the outside does. -/
def Obligations.EveryStepKeepsTheInvariants : Prop :=
  ∀ s t : State, StateInv s → step s = .next t → StateInv t

/-- R250, R257, R207: from a state with the invariants a step never faults, and it is refused only for a bench unit that
is no word of its format. -/
def Obligations.InvariantStatesNeverFault : Prop :=
  ∀ s : State, StateInv s → (∃ t, step s = .next t)
    ∨ ∃ (f : Format) (w : BitVec 32) (r : List Stimulus) (e : DecodeError),
        s.stimuli = .unit f w :: r ∧ f ≠ .cmd32 ∧ decode s.cfg f w = .error e ∧ step s = .refused (.undecodable e)

/-- R201: the complete transition table of the arbiter; R209: only the end of the plan, the completion flag or `rst` ends a
SEND or a PLAY. -/
def Obligations.ArbiterMovesOnlyByItsTable : Prop :=
  ∀ s t : State, StateInv s → step s = .next t →
    t.arb = s.arb
    ∨ (s.arb = .idle ∧ t.arb = .rttyActive ∧ ∃ w r, s.stimuli = .unit .cmd32 w :: r ∧ decode s.cfg .cmd32 w = .ok .send)
    ∨ (s.arb = .rttyActive ∧ t.arb = .idle ∧ s.holdCnt = 0 ∧ s.planPos + 1 = s.planLen)
    ∨ (s.arb = .idle ∧ t.arb = .playbackActive ∧ ∃ w r, s.stimuli = .unit .cmd32 w :: r ∧ decode s.cfg .cmd32 w = .ok .play)
    ∨ (s.arb = .playbackActive ∧ t.arb = .idle ∧ s.pbDone = true)
    ∨ (t.arb = .idle ∧ (s.stimuli.head? = some .rst ∨ ∃ n, s.stimuli.head? = some (.cut n)))

/-- R47, R207: no instruction writes ACC, the parameters, the supplied memory or the stimuli; only SEND and PLAY move the
arbiter; only SEND writes the increment, the hold, the plan position, the snapshot, the plan and SHIFT; only PLAY writes the
two DDS enables; only PLAY and the streamed byte write the playback's registers and the chip-select; only the streamed byte
emits a `Dac`. That the rows of the other formats act on the bench alone is the model's choice (log 1). -/
def Obligations.InstructionsKeepToTheirWriters : Prop :=
  ∀ (i : Instr) (s t : State), exec i s = .next t →
    t.acc = s.acc ∧ t.cfg = s.cfg ∧ t.xmem = s.xmem ∧ t.xmemTail = s.xmemTail ∧ t.stimuli = s.stimuli
    ∧ (i ≠ .send → i ≠ .play → t.arb = s.arb)
    ∧ (i ≠ .send → t.inc = s.inc ∧ t.holdCnt = s.holdCnt ∧ t.planPos = s.planPos ∧ t.incHigh = s.incHigh
        ∧ t.incLow = s.incLow ∧ t.holdTicks = s.holdTicks ∧ t.plan = s.plan ∧ t.planLen = s.planLen ∧ t.shift = s.shift)
    ∧ (i ≠ .play → t.ddsEn = s.ddsEn ∧ t.savedDdsEn = s.savedDdsEn)
    ∧ (i ≠ .play → i.format ≠ .memByte → t.pbEn = s.pbEn ∧ t.pbActive = s.pbActive ∧ t.pbDone = s.pbDone
        ∧ t.memCs = s.memCs ∧ t.curSample = s.curSample ∧ t.sentCnt = s.sentCnt)
    ∧ (i.format ≠ .memByte → ∃ es, t.trace = es ++ s.trace ∧ ∀ f, Event.dac f ∉ es)
    ∧ (i.format ≠ .cmd32 → i.format ≠ .memByte → t = { s with bench := t.bench })

/-- R42: the layout of STATUS. -/
def Obligations.StatusShowsTheControlBits : Prop :=
  ∀ s : State, s.status.getLsbD 7 = false ∧ s.status.getLsbD 6 = s.pbDone ∧ s.status.getLsbD 5 = s.pbActive
    ∧ s.status.getLsbD 4 = s.pbEn ∧ s.status.getLsbD 3 = s.ddsEn
    ∧ (s.status.getLsbD 2 = true ↔ s.shift = .figures)
    ∧ s.status.extractLsb' 0 2 = (match s.arb with | .idle => 0 | .rttyActive => 1 | .playbackActive => 2)

/-! The wires. -/

/-- R106, R69: on the converter bus one transaction carries the 16 bits of the frame, most significant first, one at each
rising clock edge while selected, and leaves the clock low and the device deselected. -/
def Obligations.DacTransactionCarriesTheFrame : Prop :=
  ∀ f : BitVec 16, dacSampled DacLines.idle (dacWave f) = bitsMsbFirst f
    ∧ (dacWave f).getLast? = some { csN := true, sck := false, sdi := f.getLsbD 0 }

/-- R105, R67: the memory command goes out bit 31 first in 32 clock pulses; a byte's eight bits, the first sampled being
bit 7, assemble to the byte; a byte read drives eight pulses of zero. -/
def Obligations.MemoryLinkCarriesWordAndByte : Prop :=
  (∀ w : BitVec 32, memSampled (MemLines.rest true) (memCmdWave w) = bitsMsbFirst w)
    ∧ (∀ b : BitVec 8, byteOfBits (bitsMsbFirst b) = b)
    ∧ memSampled (MemLines.rest true) memReadWave = List.replicate 8 false
end

