-- ==== Sys2Proof/Laws/State.lean ====
section
/-! SUPPORT. What each named update does to each field of the state, one lemma a field, so that no later proof unfolds an
update. -/

namespace Sys2Proof.Machine

/-! `emit` -/
@[simp] theorem emit_cfg (e : Event) (s : State) : (emit e s).cfg = s.cfg := rfl
@[simp] theorem emit_highHz (e : Event) (s : State) : (emit e s).highHz = s.highHz := rfl
@[simp] theorem emit_lowHz (e : Event) (s : State) : (emit e s).lowHz = s.lowHz := rfl
@[simp] theorem emit_baudC (e : Event) (s : State) : (emit e s).baudC = s.baudC := rfl
@[simp] theorem emit_msg (e : Event) (s : State) : (emit e s).msg = s.msg := rfl
@[simp] theorem emit_msgLen (e : Event) (s : State) : (emit e s).msgLen = s.msgLen := rfl
@[simp] theorem emit_shift (e : Event) (s : State) : (emit e s).shift = s.shift := rfl
@[simp] theorem emit_plan (e : Event) (s : State) : (emit e s).plan = s.plan := rfl
@[simp] theorem emit_planLen (e : Event) (s : State) : (emit e s).planLen = s.planLen := rfl
@[simp] theorem emit_planPos (e : Event) (s : State) : (emit e s).planPos = s.planPos := rfl
@[simp] theorem emit_holdCnt (e : Event) (s : State) : (emit e s).holdCnt = s.holdCnt := rfl
@[simp] theorem emit_incHigh (e : Event) (s : State) : (emit e s).incHigh = s.incHigh := rfl
@[simp] theorem emit_incLow (e : Event) (s : State) : (emit e s).incLow = s.incLow := rfl
@[simp] theorem emit_holdTicks (e : Event) (s : State) : (emit e s).holdTicks = s.holdTicks := rfl
@[simp] theorem emit_acc (e : Event) (s : State) : (emit e s).acc = s.acc := rfl
@[simp] theorem emit_inc (e : Event) (s : State) : (emit e s).inc = s.inc := rfl
@[simp] theorem emit_curSample (e : Event) (s : State) : (emit e s).curSample = s.curSample := rfl
@[simp] theorem emit_sentCnt (e : Event) (s : State) : (emit e s).sentCnt = s.sentCnt := rfl
@[simp] theorem emit_pbActive (e : Event) (s : State) : (emit e s).pbActive = s.pbActive := rfl
@[simp] theorem emit_pbDone (e : Event) (s : State) : (emit e s).pbDone = s.pbDone := rfl
@[simp] theorem emit_arb (e : Event) (s : State) : (emit e s).arb = s.arb := rfl
@[simp] theorem emit_ddsEn (e : Event) (s : State) : (emit e s).ddsEn = s.ddsEn := rfl
@[simp] theorem emit_pbEn (e : Event) (s : State) : (emit e s).pbEn = s.pbEn := rfl
@[simp] theorem emit_savedDdsEn (e : Event) (s : State) : (emit e s).savedDdsEn = s.savedDdsEn := rfl
@[simp] theorem emit_memCs (e : Event) (s : State) : (emit e s).memCs = s.memCs := rfl
@[simp] theorem emit_xpos (e : Event) (s : State) : (emit e s).xpos = s.xpos := rfl
@[simp] theorem emit_xmem (e : Event) (s : State) : (emit e s).xmem = s.xmem := rfl
@[simp] theorem emit_xmemTail (e : Event) (s : State) : (emit e s).xmemTail = s.xmemTail := rfl
@[simp] theorem emit_bench (e : Event) (s : State) : (emit e s).bench = s.bench := rfl
@[simp] theorem emit_trace (e : Event) (s : State) : (emit e s).trace = e :: s.trace := rfl
@[simp] theorem emit_rspPort (e : Event) (s : State) : (emit e s).rspPort = s.rspPort := rfl
@[simp] theorem emit_stimuli (e : Event) (s : State) : (emit e s).stimuli = s.stimuli := rfl
@[simp] theorem emit_cutWave (e : Event) (s : State) : (emit e s).cutWave = s.cutWave := rfl
@[simp] theorem emit_cuts (e : Event) (s : State) : (emit e s).cuts = s.cuts := rfl

/-! `dacWrite` -/
@[simp] theorem dacWrite_cfg (f : BitVec 16) (s : State) : (dacWrite f s).cfg = s.cfg := rfl
@[simp] theorem dacWrite_highHz (f : BitVec 16) (s : State) : (dacWrite f s).highHz = s.highHz := rfl
@[simp] theorem dacWrite_lowHz (f : BitVec 16) (s : State) : (dacWrite f s).lowHz = s.lowHz := rfl
@[simp] theorem dacWrite_baudC (f : BitVec 16) (s : State) : (dacWrite f s).baudC = s.baudC := rfl
@[simp] theorem dacWrite_msg (f : BitVec 16) (s : State) : (dacWrite f s).msg = s.msg := rfl
@[simp] theorem dacWrite_msgLen (f : BitVec 16) (s : State) : (dacWrite f s).msgLen = s.msgLen := rfl
@[simp] theorem dacWrite_shift (f : BitVec 16) (s : State) : (dacWrite f s).shift = s.shift := rfl
@[simp] theorem dacWrite_plan (f : BitVec 16) (s : State) : (dacWrite f s).plan = s.plan := rfl
@[simp] theorem dacWrite_planLen (f : BitVec 16) (s : State) : (dacWrite f s).planLen = s.planLen := rfl
@[simp] theorem dacWrite_planPos (f : BitVec 16) (s : State) : (dacWrite f s).planPos = s.planPos := rfl
@[simp] theorem dacWrite_holdCnt (f : BitVec 16) (s : State) : (dacWrite f s).holdCnt = s.holdCnt := rfl
@[simp] theorem dacWrite_incHigh (f : BitVec 16) (s : State) : (dacWrite f s).incHigh = s.incHigh := rfl
@[simp] theorem dacWrite_incLow (f : BitVec 16) (s : State) : (dacWrite f s).incLow = s.incLow := rfl
@[simp] theorem dacWrite_holdTicks (f : BitVec 16) (s : State) : (dacWrite f s).holdTicks = s.holdTicks := rfl
@[simp] theorem dacWrite_acc (f : BitVec 16) (s : State) : (dacWrite f s).acc = s.acc := rfl
@[simp] theorem dacWrite_inc (f : BitVec 16) (s : State) : (dacWrite f s).inc = s.inc := rfl
@[simp] theorem dacWrite_curSample (f : BitVec 16) (s : State) : (dacWrite f s).curSample = s.curSample := rfl
@[simp] theorem dacWrite_sentCnt (f : BitVec 16) (s : State) : (dacWrite f s).sentCnt = s.sentCnt := rfl
@[simp] theorem dacWrite_pbActive (f : BitVec 16) (s : State) : (dacWrite f s).pbActive = s.pbActive := rfl
@[simp] theorem dacWrite_pbDone (f : BitVec 16) (s : State) : (dacWrite f s).pbDone = s.pbDone := rfl
@[simp] theorem dacWrite_arb (f : BitVec 16) (s : State) : (dacWrite f s).arb = s.arb := rfl
@[simp] theorem dacWrite_ddsEn (f : BitVec 16) (s : State) : (dacWrite f s).ddsEn = s.ddsEn := rfl
@[simp] theorem dacWrite_pbEn (f : BitVec 16) (s : State) : (dacWrite f s).pbEn = s.pbEn := rfl
@[simp] theorem dacWrite_savedDdsEn (f : BitVec 16) (s : State) : (dacWrite f s).savedDdsEn = s.savedDdsEn := rfl
@[simp] theorem dacWrite_memCs (f : BitVec 16) (s : State) : (dacWrite f s).memCs = s.memCs := rfl
@[simp] theorem dacWrite_xpos (f : BitVec 16) (s : State) : (dacWrite f s).xpos = s.xpos := rfl
@[simp] theorem dacWrite_xmem (f : BitVec 16) (s : State) : (dacWrite f s).xmem = s.xmem := rfl
@[simp] theorem dacWrite_xmemTail (f : BitVec 16) (s : State) : (dacWrite f s).xmemTail = s.xmemTail := rfl
@[simp] theorem dacWrite_bench (f : BitVec 16) (s : State) : (dacWrite f s).bench = s.bench := rfl
@[simp] theorem dacWrite_trace (f : BitVec 16) (s : State) : (dacWrite f s).trace = .dac f :: s.trace := rfl
@[simp] theorem dacWrite_rspPort (f : BitVec 16) (s : State) : (dacWrite f s).rspPort = s.rspPort := rfl
@[simp] theorem dacWrite_stimuli (f : BitVec 16) (s : State) : (dacWrite f s).stimuli = s.stimuli := rfl
@[simp] theorem dacWrite_cutWave (f : BitVec 16) (s : State) : (dacWrite f s).cutWave = s.cutWave := rfl
@[simp] theorem dacWrite_cuts (f : BitVec 16) (s : State) : (dacWrite f s).cuts = s.cuts := rfl

/-! `memLinkSelect` -/
@[simp] theorem memLinkSelect_cfg (s : State) : (memLinkSelect s).cfg = s.cfg := rfl
@[simp] theorem memLinkSelect_highHz (s : State) : (memLinkSelect s).highHz = s.highHz := rfl
@[simp] theorem memLinkSelect_lowHz (s : State) : (memLinkSelect s).lowHz = s.lowHz := rfl
@[simp] theorem memLinkSelect_baudC (s : State) : (memLinkSelect s).baudC = s.baudC := rfl
@[simp] theorem memLinkSelect_msg (s : State) : (memLinkSelect s).msg = s.msg := rfl
@[simp] theorem memLinkSelect_msgLen (s : State) : (memLinkSelect s).msgLen = s.msgLen := rfl
@[simp] theorem memLinkSelect_shift (s : State) : (memLinkSelect s).shift = s.shift := rfl
@[simp] theorem memLinkSelect_plan (s : State) : (memLinkSelect s).plan = s.plan := rfl
@[simp] theorem memLinkSelect_planLen (s : State) : (memLinkSelect s).planLen = s.planLen := rfl
@[simp] theorem memLinkSelect_planPos (s : State) : (memLinkSelect s).planPos = s.planPos := rfl
@[simp] theorem memLinkSelect_holdCnt (s : State) : (memLinkSelect s).holdCnt = s.holdCnt := rfl
@[simp] theorem memLinkSelect_incHigh (s : State) : (memLinkSelect s).incHigh = s.incHigh := rfl
@[simp] theorem memLinkSelect_incLow (s : State) : (memLinkSelect s).incLow = s.incLow := rfl
@[simp] theorem memLinkSelect_holdTicks (s : State) : (memLinkSelect s).holdTicks = s.holdTicks := rfl
@[simp] theorem memLinkSelect_acc (s : State) : (memLinkSelect s).acc = s.acc := rfl
@[simp] theorem memLinkSelect_inc (s : State) : (memLinkSelect s).inc = s.inc := rfl
@[simp] theorem memLinkSelect_curSample (s : State) : (memLinkSelect s).curSample = s.curSample := rfl
@[simp] theorem memLinkSelect_sentCnt (s : State) : (memLinkSelect s).sentCnt = s.sentCnt := rfl
@[simp] theorem memLinkSelect_pbActive (s : State) : (memLinkSelect s).pbActive = s.pbActive := rfl
@[simp] theorem memLinkSelect_pbDone (s : State) : (memLinkSelect s).pbDone = s.pbDone := rfl
@[simp] theorem memLinkSelect_arb (s : State) : (memLinkSelect s).arb = s.arb := rfl
@[simp] theorem memLinkSelect_ddsEn (s : State) : (memLinkSelect s).ddsEn = s.ddsEn := rfl
@[simp] theorem memLinkSelect_pbEn (s : State) : (memLinkSelect s).pbEn = s.pbEn := rfl
@[simp] theorem memLinkSelect_savedDdsEn (s : State) : (memLinkSelect s).savedDdsEn = s.savedDdsEn := rfl
@[simp] theorem memLinkSelect_memCs (s : State) : (memLinkSelect s).memCs = true := rfl
@[simp] theorem memLinkSelect_xpos (s : State) : (memLinkSelect s).xpos = s.xpos := rfl
@[simp] theorem memLinkSelect_xmem (s : State) : (memLinkSelect s).xmem = s.xmem := rfl
@[simp] theorem memLinkSelect_xmemTail (s : State) : (memLinkSelect s).xmemTail = s.xmemTail := rfl
@[simp] theorem memLinkSelect_bench (s : State) : (memLinkSelect s).bench = s.bench := rfl
@[simp] theorem memLinkSelect_trace (s : State) : (memLinkSelect s).trace = .memSel :: s.trace := rfl
@[simp] theorem memLinkSelect_rspPort (s : State) : (memLinkSelect s).rspPort = s.rspPort := rfl
@[simp] theorem memLinkSelect_stimuli (s : State) : (memLinkSelect s).stimuli = s.stimuli := rfl
@[simp] theorem memLinkSelect_cutWave (s : State) : (memLinkSelect s).cutWave = s.cutWave := rfl
@[simp] theorem memLinkSelect_cuts (s : State) : (memLinkSelect s).cuts = s.cuts := rfl

/-! `memLinkCmd` -/
@[simp] theorem memLinkCmd_cfg (w : BitVec 32) (s : State) : (memLinkCmd w s).cfg = s.cfg := rfl
@[simp] theorem memLinkCmd_highHz (w : BitVec 32) (s : State) : (memLinkCmd w s).highHz = s.highHz := rfl
@[simp] theorem memLinkCmd_lowHz (w : BitVec 32) (s : State) : (memLinkCmd w s).lowHz = s.lowHz := rfl
@[simp] theorem memLinkCmd_baudC (w : BitVec 32) (s : State) : (memLinkCmd w s).baudC = s.baudC := rfl
@[simp] theorem memLinkCmd_msg (w : BitVec 32) (s : State) : (memLinkCmd w s).msg = s.msg := rfl
@[simp] theorem memLinkCmd_msgLen (w : BitVec 32) (s : State) : (memLinkCmd w s).msgLen = s.msgLen := rfl
@[simp] theorem memLinkCmd_shift (w : BitVec 32) (s : State) : (memLinkCmd w s).shift = s.shift := rfl
@[simp] theorem memLinkCmd_plan (w : BitVec 32) (s : State) : (memLinkCmd w s).plan = s.plan := rfl
@[simp] theorem memLinkCmd_planLen (w : BitVec 32) (s : State) : (memLinkCmd w s).planLen = s.planLen := rfl
@[simp] theorem memLinkCmd_planPos (w : BitVec 32) (s : State) : (memLinkCmd w s).planPos = s.planPos := rfl
@[simp] theorem memLinkCmd_holdCnt (w : BitVec 32) (s : State) : (memLinkCmd w s).holdCnt = s.holdCnt := rfl
@[simp] theorem memLinkCmd_incHigh (w : BitVec 32) (s : State) : (memLinkCmd w s).incHigh = s.incHigh := rfl
@[simp] theorem memLinkCmd_incLow (w : BitVec 32) (s : State) : (memLinkCmd w s).incLow = s.incLow := rfl
@[simp] theorem memLinkCmd_holdTicks (w : BitVec 32) (s : State) : (memLinkCmd w s).holdTicks = s.holdTicks := rfl
@[simp] theorem memLinkCmd_acc (w : BitVec 32) (s : State) : (memLinkCmd w s).acc = s.acc := rfl
@[simp] theorem memLinkCmd_inc (w : BitVec 32) (s : State) : (memLinkCmd w s).inc = s.inc := rfl
@[simp] theorem memLinkCmd_curSample (w : BitVec 32) (s : State) : (memLinkCmd w s).curSample = s.curSample := rfl
@[simp] theorem memLinkCmd_sentCnt (w : BitVec 32) (s : State) : (memLinkCmd w s).sentCnt = s.sentCnt := rfl
@[simp] theorem memLinkCmd_pbActive (w : BitVec 32) (s : State) : (memLinkCmd w s).pbActive = s.pbActive := rfl
@[simp] theorem memLinkCmd_pbDone (w : BitVec 32) (s : State) : (memLinkCmd w s).pbDone = s.pbDone := rfl
@[simp] theorem memLinkCmd_arb (w : BitVec 32) (s : State) : (memLinkCmd w s).arb = s.arb := rfl
@[simp] theorem memLinkCmd_ddsEn (w : BitVec 32) (s : State) : (memLinkCmd w s).ddsEn = s.ddsEn := rfl
@[simp] theorem memLinkCmd_pbEn (w : BitVec 32) (s : State) : (memLinkCmd w s).pbEn = s.pbEn := rfl
@[simp] theorem memLinkCmd_savedDdsEn (w : BitVec 32) (s : State) : (memLinkCmd w s).savedDdsEn = s.savedDdsEn := rfl
@[simp] theorem memLinkCmd_memCs (w : BitVec 32) (s : State) : (memLinkCmd w s).memCs = s.memCs := rfl
@[simp] theorem memLinkCmd_xpos (w : BitVec 32) (s : State) : (memLinkCmd w s).xpos = 0 := rfl
@[simp] theorem memLinkCmd_xmem (w : BitVec 32) (s : State) : (memLinkCmd w s).xmem = s.xmem := rfl
@[simp] theorem memLinkCmd_xmemTail (w : BitVec 32) (s : State) : (memLinkCmd w s).xmemTail = s.xmemTail := rfl
@[simp] theorem memLinkCmd_bench (w : BitVec 32) (s : State) : (memLinkCmd w s).bench = s.bench := rfl
@[simp] theorem memLinkCmd_trace (w : BitVec 32) (s : State) : (memLinkCmd w s).trace = .memCmd w :: s.trace := rfl
@[simp] theorem memLinkCmd_rspPort (w : BitVec 32) (s : State) : (memLinkCmd w s).rspPort = s.rspPort := rfl
@[simp] theorem memLinkCmd_stimuli (w : BitVec 32) (s : State) : (memLinkCmd w s).stimuli = s.stimuli := rfl
@[simp] theorem memLinkCmd_cutWave (w : BitVec 32) (s : State) : (memLinkCmd w s).cutWave = s.cutWave := rfl
@[simp] theorem memLinkCmd_cuts (w : BitVec 32) (s : State) : (memLinkCmd w s).cuts = s.cuts := rfl

/-! `memLinkReadByte` -/
@[simp] theorem memLinkReadByte_cfg (b : Byte) (s : State) : (memLinkReadByte b s).cfg = s.cfg := rfl
@[simp] theorem memLinkReadByte_highHz (b : Byte) (s : State) : (memLinkReadByte b s).highHz = s.highHz := rfl
@[simp] theorem memLinkReadByte_lowHz (b : Byte) (s : State) : (memLinkReadByte b s).lowHz = s.lowHz := rfl
@[simp] theorem memLinkReadByte_baudC (b : Byte) (s : State) : (memLinkReadByte b s).baudC = s.baudC := rfl
@[simp] theorem memLinkReadByte_msg (b : Byte) (s : State) : (memLinkReadByte b s).msg = s.msg := rfl
@[simp] theorem memLinkReadByte_msgLen (b : Byte) (s : State) : (memLinkReadByte b s).msgLen = s.msgLen := rfl
@[simp] theorem memLinkReadByte_shift (b : Byte) (s : State) : (memLinkReadByte b s).shift = s.shift := rfl
@[simp] theorem memLinkReadByte_plan (b : Byte) (s : State) : (memLinkReadByte b s).plan = s.plan := rfl
@[simp] theorem memLinkReadByte_planLen (b : Byte) (s : State) : (memLinkReadByte b s).planLen = s.planLen := rfl
@[simp] theorem memLinkReadByte_planPos (b : Byte) (s : State) : (memLinkReadByte b s).planPos = s.planPos := rfl
@[simp] theorem memLinkReadByte_holdCnt (b : Byte) (s : State) : (memLinkReadByte b s).holdCnt = s.holdCnt := rfl
@[simp] theorem memLinkReadByte_incHigh (b : Byte) (s : State) : (memLinkReadByte b s).incHigh = s.incHigh := rfl
@[simp] theorem memLinkReadByte_incLow (b : Byte) (s : State) : (memLinkReadByte b s).incLow = s.incLow := rfl
@[simp] theorem memLinkReadByte_holdTicks (b : Byte) (s : State) : (memLinkReadByte b s).holdTicks = s.holdTicks := rfl
@[simp] theorem memLinkReadByte_acc (b : Byte) (s : State) : (memLinkReadByte b s).acc = s.acc := rfl
@[simp] theorem memLinkReadByte_inc (b : Byte) (s : State) : (memLinkReadByte b s).inc = s.inc := rfl
@[simp] theorem memLinkReadByte_curSample (b : Byte) (s : State) : (memLinkReadByte b s).curSample = s.curSample := rfl
@[simp] theorem memLinkReadByte_sentCnt (b : Byte) (s : State) : (memLinkReadByte b s).sentCnt = s.sentCnt := rfl
@[simp] theorem memLinkReadByte_pbActive (b : Byte) (s : State) : (memLinkReadByte b s).pbActive = s.pbActive := rfl
@[simp] theorem memLinkReadByte_pbDone (b : Byte) (s : State) : (memLinkReadByte b s).pbDone = s.pbDone := rfl
@[simp] theorem memLinkReadByte_arb (b : Byte) (s : State) : (memLinkReadByte b s).arb = s.arb := rfl
@[simp] theorem memLinkReadByte_ddsEn (b : Byte) (s : State) : (memLinkReadByte b s).ddsEn = s.ddsEn := rfl
@[simp] theorem memLinkReadByte_pbEn (b : Byte) (s : State) : (memLinkReadByte b s).pbEn = s.pbEn := rfl
@[simp] theorem memLinkReadByte_savedDdsEn (b : Byte) (s : State) : (memLinkReadByte b s).savedDdsEn = s.savedDdsEn := rfl
@[simp] theorem memLinkReadByte_memCs (b : Byte) (s : State) : (memLinkReadByte b s).memCs = s.memCs := rfl
@[simp] theorem memLinkReadByte_xpos (b : Byte) (s : State) : (memLinkReadByte b s).xpos = s.xpos + 1 := rfl
@[simp] theorem memLinkReadByte_xmem (b : Byte) (s : State) : (memLinkReadByte b s).xmem = s.xmem := rfl
@[simp] theorem memLinkReadByte_xmemTail (b : Byte) (s : State) : (memLinkReadByte b s).xmemTail = s.xmemTail := rfl
@[simp] theorem memLinkReadByte_bench (b : Byte) (s : State) : (memLinkReadByte b s).bench = s.bench := rfl
@[simp] theorem memLinkReadByte_trace (b : Byte) (s : State) : (memLinkReadByte b s).trace = .memRd b :: s.trace := rfl
@[simp] theorem memLinkReadByte_rspPort (b : Byte) (s : State) : (memLinkReadByte b s).rspPort = s.rspPort := rfl
@[simp] theorem memLinkReadByte_stimuli (b : Byte) (s : State) : (memLinkReadByte b s).stimuli = s.stimuli := rfl
@[simp] theorem memLinkReadByte_cutWave (b : Byte) (s : State) : (memLinkReadByte b s).cutWave = s.cutWave := rfl
@[simp] theorem memLinkReadByte_cuts (b : Byte) (s : State) : (memLinkReadByte b s).cuts = s.cuts := rfl

/-! `memLinkDeselect` -/
@[simp] theorem memLinkDeselect_cfg (s : State) : (memLinkDeselect s).cfg = s.cfg := rfl
@[simp] theorem memLinkDeselect_highHz (s : State) : (memLinkDeselect s).highHz = s.highHz := rfl
@[simp] theorem memLinkDeselect_lowHz (s : State) : (memLinkDeselect s).lowHz = s.lowHz := rfl
@[simp] theorem memLinkDeselect_baudC (s : State) : (memLinkDeselect s).baudC = s.baudC := rfl
@[simp] theorem memLinkDeselect_msg (s : State) : (memLinkDeselect s).msg = s.msg := rfl
@[simp] theorem memLinkDeselect_msgLen (s : State) : (memLinkDeselect s).msgLen = s.msgLen := rfl
@[simp] theorem memLinkDeselect_shift (s : State) : (memLinkDeselect s).shift = s.shift := rfl
@[simp] theorem memLinkDeselect_plan (s : State) : (memLinkDeselect s).plan = s.plan := rfl
@[simp] theorem memLinkDeselect_planLen (s : State) : (memLinkDeselect s).planLen = s.planLen := rfl
@[simp] theorem memLinkDeselect_planPos (s : State) : (memLinkDeselect s).planPos = s.planPos := rfl
@[simp] theorem memLinkDeselect_holdCnt (s : State) : (memLinkDeselect s).holdCnt = s.holdCnt := rfl
@[simp] theorem memLinkDeselect_incHigh (s : State) : (memLinkDeselect s).incHigh = s.incHigh := rfl
@[simp] theorem memLinkDeselect_incLow (s : State) : (memLinkDeselect s).incLow = s.incLow := rfl
@[simp] theorem memLinkDeselect_holdTicks (s : State) : (memLinkDeselect s).holdTicks = s.holdTicks := rfl
@[simp] theorem memLinkDeselect_acc (s : State) : (memLinkDeselect s).acc = s.acc := rfl
@[simp] theorem memLinkDeselect_inc (s : State) : (memLinkDeselect s).inc = s.inc := rfl
@[simp] theorem memLinkDeselect_curSample (s : State) : (memLinkDeselect s).curSample = s.curSample := rfl
@[simp] theorem memLinkDeselect_sentCnt (s : State) : (memLinkDeselect s).sentCnt = s.sentCnt := rfl
@[simp] theorem memLinkDeselect_pbActive (s : State) : (memLinkDeselect s).pbActive = s.pbActive := rfl
@[simp] theorem memLinkDeselect_pbDone (s : State) : (memLinkDeselect s).pbDone = s.pbDone := rfl
@[simp] theorem memLinkDeselect_arb (s : State) : (memLinkDeselect s).arb = s.arb := rfl
@[simp] theorem memLinkDeselect_ddsEn (s : State) : (memLinkDeselect s).ddsEn = s.ddsEn := rfl
@[simp] theorem memLinkDeselect_pbEn (s : State) : (memLinkDeselect s).pbEn = s.pbEn := rfl
@[simp] theorem memLinkDeselect_savedDdsEn (s : State) : (memLinkDeselect s).savedDdsEn = s.savedDdsEn := rfl
@[simp] theorem memLinkDeselect_memCs (s : State) : (memLinkDeselect s).memCs = false := rfl
@[simp] theorem memLinkDeselect_xpos (s : State) : (memLinkDeselect s).xpos = s.xpos := rfl
@[simp] theorem memLinkDeselect_xmem (s : State) : (memLinkDeselect s).xmem = s.xmem := rfl
@[simp] theorem memLinkDeselect_xmemTail (s : State) : (memLinkDeselect s).xmemTail = s.xmemTail := rfl
@[simp] theorem memLinkDeselect_bench (s : State) : (memLinkDeselect s).bench = s.bench := rfl
@[simp] theorem memLinkDeselect_trace (s : State) : (memLinkDeselect s).trace = .memDesel :: s.trace := rfl
@[simp] theorem memLinkDeselect_rspPort (s : State) : (memLinkDeselect s).rspPort = s.rspPort := rfl
@[simp] theorem memLinkDeselect_stimuli (s : State) : (memLinkDeselect s).stimuli = s.stimuli := rfl
@[simp] theorem memLinkDeselect_cutWave (s : State) : (memLinkDeselect s).cutWave = s.cutWave := rfl
@[simp] theorem memLinkDeselect_cuts (s : State) : (memLinkDeselect s).cuts = s.cuts := rfl

/-! `respond` -/
@[simp] theorem respond_cfg (v : BitVec 32) (s : State) : (respond v s).cfg = s.cfg := rfl
@[simp] theorem respond_highHz (v : BitVec 32) (s : State) : (respond v s).highHz = s.highHz := rfl
@[simp] theorem respond_lowHz (v : BitVec 32) (s : State) : (respond v s).lowHz = s.lowHz := rfl
@[simp] theorem respond_baudC (v : BitVec 32) (s : State) : (respond v s).baudC = s.baudC := rfl
@[simp] theorem respond_msg (v : BitVec 32) (s : State) : (respond v s).msg = s.msg := rfl
@[simp] theorem respond_msgLen (v : BitVec 32) (s : State) : (respond v s).msgLen = s.msgLen := rfl
@[simp] theorem respond_shift (v : BitVec 32) (s : State) : (respond v s).shift = s.shift := rfl
@[simp] theorem respond_plan (v : BitVec 32) (s : State) : (respond v s).plan = s.plan := rfl
@[simp] theorem respond_planLen (v : BitVec 32) (s : State) : (respond v s).planLen = s.planLen := rfl
@[simp] theorem respond_planPos (v : BitVec 32) (s : State) : (respond v s).planPos = s.planPos := rfl
@[simp] theorem respond_holdCnt (v : BitVec 32) (s : State) : (respond v s).holdCnt = s.holdCnt := rfl
@[simp] theorem respond_incHigh (v : BitVec 32) (s : State) : (respond v s).incHigh = s.incHigh := rfl
@[simp] theorem respond_incLow (v : BitVec 32) (s : State) : (respond v s).incLow = s.incLow := rfl
@[simp] theorem respond_holdTicks (v : BitVec 32) (s : State) : (respond v s).holdTicks = s.holdTicks := rfl
@[simp] theorem respond_acc (v : BitVec 32) (s : State) : (respond v s).acc = s.acc := rfl
@[simp] theorem respond_inc (v : BitVec 32) (s : State) : (respond v s).inc = s.inc := rfl
@[simp] theorem respond_curSample (v : BitVec 32) (s : State) : (respond v s).curSample = s.curSample := rfl
@[simp] theorem respond_sentCnt (v : BitVec 32) (s : State) : (respond v s).sentCnt = s.sentCnt := rfl
@[simp] theorem respond_pbActive (v : BitVec 32) (s : State) : (respond v s).pbActive = s.pbActive := rfl
@[simp] theorem respond_pbDone (v : BitVec 32) (s : State) : (respond v s).pbDone = s.pbDone := rfl
@[simp] theorem respond_arb (v : BitVec 32) (s : State) : (respond v s).arb = s.arb := rfl
@[simp] theorem respond_ddsEn (v : BitVec 32) (s : State) : (respond v s).ddsEn = s.ddsEn := rfl
@[simp] theorem respond_pbEn (v : BitVec 32) (s : State) : (respond v s).pbEn = s.pbEn := rfl
@[simp] theorem respond_savedDdsEn (v : BitVec 32) (s : State) : (respond v s).savedDdsEn = s.savedDdsEn := rfl
@[simp] theorem respond_memCs (v : BitVec 32) (s : State) : (respond v s).memCs = s.memCs := rfl
@[simp] theorem respond_xpos (v : BitVec 32) (s : State) : (respond v s).xpos = s.xpos := rfl
@[simp] theorem respond_xmem (v : BitVec 32) (s : State) : (respond v s).xmem = s.xmem := rfl
@[simp] theorem respond_xmemTail (v : BitVec 32) (s : State) : (respond v s).xmemTail = s.xmemTail := rfl
@[simp] theorem respond_bench (v : BitVec 32) (s : State) : (respond v s).bench = s.bench := rfl
@[simp] theorem respond_trace (v : BitVec 32) (s : State) : (respond v s).trace = .rsp v :: s.trace := rfl
@[simp] theorem respond_rspPort (v : BitVec 32) (s : State) : (respond v s).rspPort = some v := rfl
@[simp] theorem respond_stimuli (v : BitVec 32) (s : State) : (respond v s).stimuli = s.stimuli := rfl
@[simp] theorem respond_cutWave (v : BitVec 32) (s : State) : (respond v s).cutWave = s.cutWave := rfl
@[simp] theorem respond_cuts (v : BitVec 32) (s : State) : (respond v s).cuts = s.cuts := rfl

/-! `beginStep` -/
@[simp] theorem beginStep_cfg (s : State) : (beginStep s).cfg = s.cfg := rfl
@[simp] theorem beginStep_highHz (s : State) : (beginStep s).highHz = s.highHz := rfl
@[simp] theorem beginStep_lowHz (s : State) : (beginStep s).lowHz = s.lowHz := rfl
@[simp] theorem beginStep_baudC (s : State) : (beginStep s).baudC = s.baudC := rfl
@[simp] theorem beginStep_msg (s : State) : (beginStep s).msg = s.msg := rfl
@[simp] theorem beginStep_msgLen (s : State) : (beginStep s).msgLen = s.msgLen := rfl
@[simp] theorem beginStep_shift (s : State) : (beginStep s).shift = s.shift := rfl
@[simp] theorem beginStep_plan (s : State) : (beginStep s).plan = s.plan := rfl
@[simp] theorem beginStep_planLen (s : State) : (beginStep s).planLen = s.planLen := rfl
@[simp] theorem beginStep_planPos (s : State) : (beginStep s).planPos = s.planPos := rfl
@[simp] theorem beginStep_holdCnt (s : State) : (beginStep s).holdCnt = s.holdCnt := rfl
@[simp] theorem beginStep_incHigh (s : State) : (beginStep s).incHigh = s.incHigh := rfl
@[simp] theorem beginStep_incLow (s : State) : (beginStep s).incLow = s.incLow := rfl
@[simp] theorem beginStep_holdTicks (s : State) : (beginStep s).holdTicks = s.holdTicks := rfl
@[simp] theorem beginStep_acc (s : State) : (beginStep s).acc = s.acc := rfl
@[simp] theorem beginStep_inc (s : State) : (beginStep s).inc = s.inc := rfl
@[simp] theorem beginStep_curSample (s : State) : (beginStep s).curSample = s.curSample := rfl
@[simp] theorem beginStep_sentCnt (s : State) : (beginStep s).sentCnt = s.sentCnt := rfl
@[simp] theorem beginStep_pbActive (s : State) : (beginStep s).pbActive = s.pbActive := rfl
@[simp] theorem beginStep_pbDone (s : State) : (beginStep s).pbDone = s.pbDone := rfl
@[simp] theorem beginStep_arb (s : State) : (beginStep s).arb = s.arb := rfl
@[simp] theorem beginStep_ddsEn (s : State) : (beginStep s).ddsEn = s.ddsEn := rfl
@[simp] theorem beginStep_pbEn (s : State) : (beginStep s).pbEn = s.pbEn := rfl
@[simp] theorem beginStep_savedDdsEn (s : State) : (beginStep s).savedDdsEn = s.savedDdsEn := rfl
@[simp] theorem beginStep_memCs (s : State) : (beginStep s).memCs = s.memCs := rfl
@[simp] theorem beginStep_xpos (s : State) : (beginStep s).xpos = s.xpos := rfl
@[simp] theorem beginStep_xmem (s : State) : (beginStep s).xmem = s.xmem := rfl
@[simp] theorem beginStep_xmemTail (s : State) : (beginStep s).xmemTail = s.xmemTail := rfl
@[simp] theorem beginStep_bench (s : State) : (beginStep s).bench = s.bench := rfl
@[simp] theorem beginStep_trace (s : State) : (beginStep s).trace = s.trace := rfl
@[simp] theorem beginStep_rspPort (s : State) : (beginStep s).rspPort = none := rfl
@[simp] theorem beginStep_stimuli (s : State) : (beginStep s).stimuli = s.stimuli := rfl
@[simp] theorem beginStep_cutWave (s : State) : (beginStep s).cutWave = s.cutWave := rfl
@[simp] theorem beginStep_cuts (s : State) : (beginStep s).cuts = s.cuts := rfl

/-! `playComplete` -/
@[simp] theorem playComplete_cfg (s : State) : (playComplete s).cfg = s.cfg := rfl
@[simp] theorem playComplete_highHz (s : State) : (playComplete s).highHz = s.highHz := rfl
@[simp] theorem playComplete_lowHz (s : State) : (playComplete s).lowHz = s.lowHz := rfl
@[simp] theorem playComplete_baudC (s : State) : (playComplete s).baudC = s.baudC := rfl
@[simp] theorem playComplete_msg (s : State) : (playComplete s).msg = s.msg := rfl
@[simp] theorem playComplete_msgLen (s : State) : (playComplete s).msgLen = s.msgLen := rfl
@[simp] theorem playComplete_shift (s : State) : (playComplete s).shift = s.shift := rfl
@[simp] theorem playComplete_plan (s : State) : (playComplete s).plan = s.plan := rfl
@[simp] theorem playComplete_planLen (s : State) : (playComplete s).planLen = s.planLen := rfl
@[simp] theorem playComplete_planPos (s : State) : (playComplete s).planPos = s.planPos := rfl
@[simp] theorem playComplete_holdCnt (s : State) : (playComplete s).holdCnt = s.holdCnt := rfl
@[simp] theorem playComplete_incHigh (s : State) : (playComplete s).incHigh = s.incHigh := rfl
@[simp] theorem playComplete_incLow (s : State) : (playComplete s).incLow = s.incLow := rfl
@[simp] theorem playComplete_holdTicks (s : State) : (playComplete s).holdTicks = s.holdTicks := rfl
@[simp] theorem playComplete_acc (s : State) : (playComplete s).acc = s.acc := rfl
@[simp] theorem playComplete_inc (s : State) : (playComplete s).inc = s.inc := rfl
@[simp] theorem playComplete_curSample (s : State) : (playComplete s).curSample = s.curSample := rfl
@[simp] theorem playComplete_sentCnt (s : State) : (playComplete s).sentCnt = s.sentCnt := rfl
@[simp] theorem playComplete_pbActive (s : State) : (playComplete s).pbActive = s.pbActive := rfl
@[simp] theorem playComplete_pbDone (s : State) : (playComplete s).pbDone = s.pbDone := rfl
@[simp] theorem playComplete_arb (s : State) : (playComplete s).arb = .idle := rfl
@[simp] theorem playComplete_ddsEn (s : State) : (playComplete s).ddsEn = s.savedDdsEn := rfl
@[simp] theorem playComplete_pbEn (s : State) : (playComplete s).pbEn = s.pbEn := rfl
@[simp] theorem playComplete_savedDdsEn (s : State) : (playComplete s).savedDdsEn = s.savedDdsEn := rfl
@[simp] theorem playComplete_memCs (s : State) : (playComplete s).memCs = s.memCs := rfl
@[simp] theorem playComplete_xpos (s : State) : (playComplete s).xpos = s.xpos := rfl
@[simp] theorem playComplete_xmem (s : State) : (playComplete s).xmem = s.xmem := rfl
@[simp] theorem playComplete_xmemTail (s : State) : (playComplete s).xmemTail = s.xmemTail := rfl
@[simp] theorem playComplete_bench (s : State) : (playComplete s).bench = s.bench := rfl
@[simp] theorem playComplete_trace (s : State) : (playComplete s).trace = s.trace := rfl
@[simp] theorem playComplete_rspPort (s : State) : (playComplete s).rspPort = s.rspPort := rfl
@[simp] theorem playComplete_stimuli (s : State) : (playComplete s).stimuli = s.stimuli := rfl
@[simp] theorem playComplete_cutWave (s : State) : (playComplete s).cutWave = s.cutWave := rfl
@[simp] theorem playComplete_cuts (s : State) : (playComplete s).cuts = s.cuts := rfl

/-! `streamStart` -/
@[simp] theorem streamStart_cfg (s : State) : (streamStart s).cfg = s.cfg := rfl
@[simp] theorem streamStart_highHz (s : State) : (streamStart s).highHz = s.highHz := rfl
@[simp] theorem streamStart_lowHz (s : State) : (streamStart s).lowHz = s.lowHz := rfl
@[simp] theorem streamStart_baudC (s : State) : (streamStart s).baudC = s.baudC := rfl
@[simp] theorem streamStart_msg (s : State) : (streamStart s).msg = s.msg := rfl
@[simp] theorem streamStart_msgLen (s : State) : (streamStart s).msgLen = s.msgLen := rfl
@[simp] theorem streamStart_shift (s : State) : (streamStart s).shift = s.shift := rfl
@[simp] theorem streamStart_plan (s : State) : (streamStart s).plan = s.plan := rfl
@[simp] theorem streamStart_planLen (s : State) : (streamStart s).planLen = s.planLen := rfl
@[simp] theorem streamStart_planPos (s : State) : (streamStart s).planPos = s.planPos := rfl
@[simp] theorem streamStart_holdCnt (s : State) : (streamStart s).holdCnt = s.holdCnt := rfl
@[simp] theorem streamStart_incHigh (s : State) : (streamStart s).incHigh = s.incHigh := rfl
@[simp] theorem streamStart_incLow (s : State) : (streamStart s).incLow = s.incLow := rfl
@[simp] theorem streamStart_holdTicks (s : State) : (streamStart s).holdTicks = s.holdTicks := rfl
@[simp] theorem streamStart_acc (s : State) : (streamStart s).acc = s.acc := rfl
@[simp] theorem streamStart_inc (s : State) : (streamStart s).inc = s.inc := rfl
@[simp] theorem streamStart_curSample (s : State) : (streamStart s).curSample = 0 := rfl
@[simp] theorem streamStart_sentCnt (s : State) : (streamStart s).sentCnt = 0 := rfl
@[simp] theorem streamStart_pbActive (s : State) : (streamStart s).pbActive = true := rfl
@[simp] theorem streamStart_pbDone (s : State) : (streamStart s).pbDone = false := rfl
@[simp] theorem streamStart_arb (s : State) : (streamStart s).arb = s.arb := rfl
@[simp] theorem streamStart_ddsEn (s : State) : (streamStart s).ddsEn = s.ddsEn := rfl
@[simp] theorem streamStart_pbEn (s : State) : (streamStart s).pbEn = s.pbEn := rfl
@[simp] theorem streamStart_savedDdsEn (s : State) : (streamStart s).savedDdsEn = s.savedDdsEn := rfl
@[simp] theorem streamStart_memCs (s : State) : (streamStart s).memCs = true := rfl
@[simp] theorem streamStart_xpos (s : State) : (streamStart s).xpos = 0 := rfl
@[simp] theorem streamStart_xmem (s : State) : (streamStart s).xmem = s.xmem := rfl
@[simp] theorem streamStart_xmemTail (s : State) : (streamStart s).xmemTail = s.xmemTail := rfl
@[simp] theorem streamStart_bench (s : State) : (streamStart s).bench = s.bench := rfl
@[simp] theorem streamStart_trace (s : State) : (streamStart s).trace = .memCmd (memHeader s.cfg) :: .memSel :: s.trace := rfl
@[simp] theorem streamStart_rspPort (s : State) : (streamStart s).rspPort = s.rspPort := rfl
@[simp] theorem streamStart_stimuli (s : State) : (streamStart s).stimuli = s.stimuli := rfl
@[simp] theorem streamStart_cutWave (s : State) : (streamStart s).cutWave = s.cutWave := rfl
@[simp] theorem streamStart_cuts (s : State) : (streamStart s).cuts = s.cuts := rfl

/-! `playAccept` -/
@[simp] theorem playAccept_cfg (s : State) : (playAccept s).cfg = s.cfg := rfl
@[simp] theorem playAccept_highHz (s : State) : (playAccept s).highHz = s.highHz := rfl
@[simp] theorem playAccept_lowHz (s : State) : (playAccept s).lowHz = s.lowHz := rfl
@[simp] theorem playAccept_baudC (s : State) : (playAccept s).baudC = s.baudC := rfl
@[simp] theorem playAccept_msg (s : State) : (playAccept s).msg = s.msg := rfl
@[simp] theorem playAccept_msgLen (s : State) : (playAccept s).msgLen = s.msgLen := rfl
@[simp] theorem playAccept_shift (s : State) : (playAccept s).shift = s.shift := rfl
@[simp] theorem playAccept_plan (s : State) : (playAccept s).plan = s.plan := rfl
@[simp] theorem playAccept_planLen (s : State) : (playAccept s).planLen = s.planLen := rfl
@[simp] theorem playAccept_planPos (s : State) : (playAccept s).planPos = s.planPos := rfl
@[simp] theorem playAccept_holdCnt (s : State) : (playAccept s).holdCnt = s.holdCnt := rfl
@[simp] theorem playAccept_incHigh (s : State) : (playAccept s).incHigh = s.incHigh := rfl
@[simp] theorem playAccept_incLow (s : State) : (playAccept s).incLow = s.incLow := rfl
@[simp] theorem playAccept_holdTicks (s : State) : (playAccept s).holdTicks = s.holdTicks := rfl
@[simp] theorem playAccept_acc (s : State) : (playAccept s).acc = s.acc := rfl
@[simp] theorem playAccept_inc (s : State) : (playAccept s).inc = s.inc := rfl
@[simp] theorem playAccept_curSample (s : State) : (playAccept s).curSample = 0 := rfl
@[simp] theorem playAccept_sentCnt (s : State) : (playAccept s).sentCnt = 0 := rfl
@[simp] theorem playAccept_pbActive (s : State) : (playAccept s).pbActive = true := rfl
@[simp] theorem playAccept_pbDone (s : State) : (playAccept s).pbDone = false := rfl
@[simp] theorem playAccept_arb (s : State) : (playAccept s).arb = .playbackActive := rfl
@[simp] theorem playAccept_ddsEn (s : State) : (playAccept s).ddsEn = false := rfl
@[simp] theorem playAccept_pbEn (s : State) : (playAccept s).pbEn = true := rfl
@[simp] theorem playAccept_savedDdsEn (s : State) : (playAccept s).savedDdsEn = s.ddsEn := rfl
@[simp] theorem playAccept_memCs (s : State) : (playAccept s).memCs = true := rfl
@[simp] theorem playAccept_xpos (s : State) : (playAccept s).xpos = 0 := rfl
@[simp] theorem playAccept_xmem (s : State) : (playAccept s).xmem = s.xmem := rfl
@[simp] theorem playAccept_xmemTail (s : State) : (playAccept s).xmemTail = s.xmemTail := rfl
@[simp] theorem playAccept_bench (s : State) : (playAccept s).bench = s.bench := rfl
@[simp] theorem playAccept_trace (s : State) : (playAccept s).trace = .memCmd (memHeader s.cfg) :: .memSel :: s.trace := rfl
@[simp] theorem playAccept_rspPort (s : State) : (playAccept s).rspPort = s.rspPort := rfl
@[simp] theorem playAccept_stimuli (s : State) : (playAccept s).stimuli = s.stimuli := rfl
@[simp] theorem playAccept_cutWave (s : State) : (playAccept s).cutWave = s.cutWave := rfl
@[simp] theorem playAccept_cuts (s : State) : (playAccept s).cuts = s.cuts := rfl

/-! `pbTerminate` -/
@[simp] theorem pbTerminate_cfg (s : State) : (pbTerminate s).cfg = s.cfg := rfl
@[simp] theorem pbTerminate_highHz (s : State) : (pbTerminate s).highHz = s.highHz := rfl
@[simp] theorem pbTerminate_lowHz (s : State) : (pbTerminate s).lowHz = s.lowHz := rfl
@[simp] theorem pbTerminate_baudC (s : State) : (pbTerminate s).baudC = s.baudC := rfl
@[simp] theorem pbTerminate_msg (s : State) : (pbTerminate s).msg = s.msg := rfl
@[simp] theorem pbTerminate_msgLen (s : State) : (pbTerminate s).msgLen = s.msgLen := rfl
@[simp] theorem pbTerminate_shift (s : State) : (pbTerminate s).shift = s.shift := rfl
@[simp] theorem pbTerminate_plan (s : State) : (pbTerminate s).plan = s.plan := rfl
@[simp] theorem pbTerminate_planLen (s : State) : (pbTerminate s).planLen = s.planLen := rfl
@[simp] theorem pbTerminate_planPos (s : State) : (pbTerminate s).planPos = s.planPos := rfl
@[simp] theorem pbTerminate_holdCnt (s : State) : (pbTerminate s).holdCnt = s.holdCnt := rfl
@[simp] theorem pbTerminate_incHigh (s : State) : (pbTerminate s).incHigh = s.incHigh := rfl
@[simp] theorem pbTerminate_incLow (s : State) : (pbTerminate s).incLow = s.incLow := rfl
@[simp] theorem pbTerminate_holdTicks (s : State) : (pbTerminate s).holdTicks = s.holdTicks := rfl
@[simp] theorem pbTerminate_acc (s : State) : (pbTerminate s).acc = s.acc := rfl
@[simp] theorem pbTerminate_inc (s : State) : (pbTerminate s).inc = s.inc := rfl
@[simp] theorem pbTerminate_curSample (s : State) : (pbTerminate s).curSample = 0 := rfl
@[simp] theorem pbTerminate_sentCnt (s : State) : (pbTerminate s).sentCnt = 0 := rfl
@[simp] theorem pbTerminate_pbActive (s : State) : (pbTerminate s).pbActive = false := rfl
@[simp] theorem pbTerminate_pbDone (s : State) : (pbTerminate s).pbDone = true := rfl
@[simp] theorem pbTerminate_arb (s : State) : (pbTerminate s).arb = s.arb := rfl
@[simp] theorem pbTerminate_ddsEn (s : State) : (pbTerminate s).ddsEn = s.ddsEn := rfl
@[simp] theorem pbTerminate_pbEn (s : State) : (pbTerminate s).pbEn = false := rfl
@[simp] theorem pbTerminate_savedDdsEn (s : State) : (pbTerminate s).savedDdsEn = s.savedDdsEn := rfl
@[simp] theorem pbTerminate_memCs (s : State) : (pbTerminate s).memCs = false := rfl
@[simp] theorem pbTerminate_xpos (s : State) : (pbTerminate s).xpos = s.xpos := rfl
@[simp] theorem pbTerminate_xmem (s : State) : (pbTerminate s).xmem = s.xmem := rfl
@[simp] theorem pbTerminate_xmemTail (s : State) : (pbTerminate s).xmemTail = s.xmemTail := rfl
@[simp] theorem pbTerminate_bench (s : State) : (pbTerminate s).bench = s.bench := rfl
@[simp] theorem pbTerminate_trace (s : State) : (pbTerminate s).trace = .memDesel :: s.trace := rfl
@[simp] theorem pbTerminate_rspPort (s : State) : (pbTerminate s).rspPort = s.rspPort := rfl
@[simp] theorem pbTerminate_stimuli (s : State) : (pbTerminate s).stimuli = s.stimuli := rfl
@[simp] theorem pbTerminate_cutWave (s : State) : (pbTerminate s).cutWave = s.cutWave := rfl
@[simp] theorem pbTerminate_cuts (s : State) : (pbTerminate s).cuts = s.cuts := rfl

/-! `msgPut` -/
@[simp] theorem msgPut_cfg (c : Byte) (s : State) : (msgPut c s).cfg = s.cfg := by unfold msgPut; split <;> rfl
@[simp] theorem msgPut_highHz (c : Byte) (s : State) : (msgPut c s).highHz = s.highHz := by unfold msgPut; split <;> rfl
@[simp] theorem msgPut_lowHz (c : Byte) (s : State) : (msgPut c s).lowHz = s.lowHz := by unfold msgPut; split <;> rfl
@[simp] theorem msgPut_baudC (c : Byte) (s : State) : (msgPut c s).baudC = s.baudC := by unfold msgPut; split <;> rfl
@[simp] theorem msgPut_shift (c : Byte) (s : State) : (msgPut c s).shift = s.shift := by unfold msgPut; split <;> rfl
@[simp] theorem msgPut_plan (c : Byte) (s : State) : (msgPut c s).plan = s.plan := by unfold msgPut; split <;> rfl
@[simp] theorem msgPut_planLen (c : Byte) (s : State) : (msgPut c s).planLen = s.planLen := by unfold msgPut; split <;> rfl
@[simp] theorem msgPut_planPos (c : Byte) (s : State) : (msgPut c s).planPos = s.planPos := by unfold msgPut; split <;> rfl
@[simp] theorem msgPut_holdCnt (c : Byte) (s : State) : (msgPut c s).holdCnt = s.holdCnt := by unfold msgPut; split <;> rfl
@[simp] theorem msgPut_incHigh (c : Byte) (s : State) : (msgPut c s).incHigh = s.incHigh := by unfold msgPut; split <;> rfl
@[simp] theorem msgPut_incLow (c : Byte) (s : State) : (msgPut c s).incLow = s.incLow := by unfold msgPut; split <;> rfl
@[simp] theorem msgPut_holdTicks (c : Byte) (s : State) : (msgPut c s).holdTicks = s.holdTicks := by unfold msgPut; split <;> rfl
@[simp] theorem msgPut_acc (c : Byte) (s : State) : (msgPut c s).acc = s.acc := by unfold msgPut; split <;> rfl
@[simp] theorem msgPut_inc (c : Byte) (s : State) : (msgPut c s).inc = s.inc := by unfold msgPut; split <;> rfl
@[simp] theorem msgPut_curSample (c : Byte) (s : State) : (msgPut c s).curSample = s.curSample := by unfold msgPut; split <;> rfl
@[simp] theorem msgPut_sentCnt (c : Byte) (s : State) : (msgPut c s).sentCnt = s.sentCnt := by unfold msgPut; split <;> rfl
@[simp] theorem msgPut_pbActive (c : Byte) (s : State) : (msgPut c s).pbActive = s.pbActive := by unfold msgPut; split <;> rfl
@[simp] theorem msgPut_pbDone (c : Byte) (s : State) : (msgPut c s).pbDone = s.pbDone := by unfold msgPut; split <;> rfl
@[simp] theorem msgPut_arb (c : Byte) (s : State) : (msgPut c s).arb = s.arb := by unfold msgPut; split <;> rfl
@[simp] theorem msgPut_ddsEn (c : Byte) (s : State) : (msgPut c s).ddsEn = s.ddsEn := by unfold msgPut; split <;> rfl
@[simp] theorem msgPut_pbEn (c : Byte) (s : State) : (msgPut c s).pbEn = s.pbEn := by unfold msgPut; split <;> rfl
@[simp] theorem msgPut_savedDdsEn (c : Byte) (s : State) : (msgPut c s).savedDdsEn = s.savedDdsEn := by unfold msgPut; split <;> rfl
@[simp] theorem msgPut_memCs (c : Byte) (s : State) : (msgPut c s).memCs = s.memCs := by unfold msgPut; split <;> rfl
@[simp] theorem msgPut_xpos (c : Byte) (s : State) : (msgPut c s).xpos = s.xpos := by unfold msgPut; split <;> rfl
@[simp] theorem msgPut_xmem (c : Byte) (s : State) : (msgPut c s).xmem = s.xmem := by unfold msgPut; split <;> rfl
@[simp] theorem msgPut_xmemTail (c : Byte) (s : State) : (msgPut c s).xmemTail = s.xmemTail := by unfold msgPut; split <;> rfl
@[simp] theorem msgPut_bench (c : Byte) (s : State) : (msgPut c s).bench = s.bench := by unfold msgPut; split <;> rfl
@[simp] theorem msgPut_trace (c : Byte) (s : State) : (msgPut c s).trace = s.trace := by unfold msgPut; split <;> rfl
@[simp] theorem msgPut_rspPort (c : Byte) (s : State) : (msgPut c s).rspPort = s.rspPort := by unfold msgPut; split <;> rfl
@[simp] theorem msgPut_stimuli (c : Byte) (s : State) : (msgPut c s).stimuli = s.stimuli := by unfold msgPut; split <;> rfl
@[simp] theorem msgPut_cutWave (c : Byte) (s : State) : (msgPut c s).cutWave = s.cutWave := by unfold msgPut; split <;> rfl
@[simp] theorem msgPut_cuts (c : Byte) (s : State) : (msgPut c s).cuts = s.cuts := by unfold msgPut; split <;> rfl

/-! `ddsTick` -/
@[simp] theorem ddsTick_cfg (s : State) : (ddsTick s).cfg = s.cfg := by unfold ddsTick; dsimp only; split <;> simp_all
@[simp] theorem ddsTick_highHz (s : State) : (ddsTick s).highHz = s.highHz := by unfold ddsTick; dsimp only; split <;> simp_all
@[simp] theorem ddsTick_lowHz (s : State) : (ddsTick s).lowHz = s.lowHz := by unfold ddsTick; dsimp only; split <;> simp_all
@[simp] theorem ddsTick_baudC (s : State) : (ddsTick s).baudC = s.baudC := by unfold ddsTick; dsimp only; split <;> simp_all
@[simp] theorem ddsTick_msg (s : State) : (ddsTick s).msg = s.msg := by unfold ddsTick; dsimp only; split <;> simp_all
@[simp] theorem ddsTick_msgLen (s : State) : (ddsTick s).msgLen = s.msgLen := by unfold ddsTick; dsimp only; split <;> simp_all
@[simp] theorem ddsTick_shift (s : State) : (ddsTick s).shift = s.shift := by unfold ddsTick; dsimp only; split <;> simp_all
@[simp] theorem ddsTick_plan (s : State) : (ddsTick s).plan = s.plan := by unfold ddsTick; dsimp only; split <;> simp_all
@[simp] theorem ddsTick_planLen (s : State) : (ddsTick s).planLen = s.planLen := by unfold ddsTick; dsimp only; split <;> simp_all
@[simp] theorem ddsTick_planPos (s : State) : (ddsTick s).planPos = s.planPos := by unfold ddsTick; dsimp only; split <;> simp_all
@[simp] theorem ddsTick_holdCnt (s : State) : (ddsTick s).holdCnt = if s.arb = .rttyActive ∧ s.holdCnt ≠ 0 then s.holdCnt - 1 else s.holdCnt := by unfold ddsTick; dsimp only; split <;> simp_all
@[simp] theorem ddsTick_incHigh (s : State) : (ddsTick s).incHigh = s.incHigh := by unfold ddsTick; dsimp only; split <;> simp_all
@[simp] theorem ddsTick_incLow (s : State) : (ddsTick s).incLow = s.incLow := by unfold ddsTick; dsimp only; split <;> simp_all
@[simp] theorem ddsTick_holdTicks (s : State) : (ddsTick s).holdTicks = s.holdTicks := by unfold ddsTick; dsimp only; split <;> simp_all
@[simp] theorem ddsTick_acc (s : State) : (ddsTick s).acc = s.acc + s.inc := by unfold ddsTick; dsimp only; split <;> simp_all
@[simp] theorem ddsTick_inc (s : State) : (ddsTick s).inc = s.inc := by unfold ddsTick; dsimp only; split <;> simp_all
@[simp] theorem ddsTick_curSample (s : State) : (ddsTick s).curSample = s.curSample := by unfold ddsTick; dsimp only; split <;> simp_all
@[simp] theorem ddsTick_sentCnt (s : State) : (ddsTick s).sentCnt = s.sentCnt := by unfold ddsTick; dsimp only; split <;> simp_all
@[simp] theorem ddsTick_pbActive (s : State) : (ddsTick s).pbActive = s.pbActive := by unfold ddsTick; dsimp only; split <;> simp_all
@[simp] theorem ddsTick_pbDone (s : State) : (ddsTick s).pbDone = s.pbDone := by unfold ddsTick; dsimp only; split <;> simp_all
@[simp] theorem ddsTick_arb (s : State) : (ddsTick s).arb = s.arb := by unfold ddsTick; dsimp only; split <;> simp_all
@[simp] theorem ddsTick_ddsEn (s : State) : (ddsTick s).ddsEn = s.ddsEn := by unfold ddsTick; dsimp only; split <;> simp_all
@[simp] theorem ddsTick_pbEn (s : State) : (ddsTick s).pbEn = s.pbEn := by unfold ddsTick; dsimp only; split <;> simp_all
@[simp] theorem ddsTick_savedDdsEn (s : State) : (ddsTick s).savedDdsEn = s.savedDdsEn := by unfold ddsTick; dsimp only; split <;> simp_all
@[simp] theorem ddsTick_memCs (s : State) : (ddsTick s).memCs = s.memCs := by unfold ddsTick; dsimp only; split <;> simp_all
@[simp] theorem ddsTick_xpos (s : State) : (ddsTick s).xpos = s.xpos := by unfold ddsTick; dsimp only; split <;> simp_all
@[simp] theorem ddsTick_xmem (s : State) : (ddsTick s).xmem = s.xmem := by unfold ddsTick; dsimp only; split <;> simp_all
@[simp] theorem ddsTick_xmemTail (s : State) : (ddsTick s).xmemTail = s.xmemTail := by unfold ddsTick; dsimp only; split <;> simp_all
@[simp] theorem ddsTick_bench (s : State) : (ddsTick s).bench = s.bench := by unfold ddsTick; dsimp only; split <;> simp_all
@[simp] theorem ddsTick_trace (s : State) : (ddsTick s).trace = .dac (dacFrame s.cfg (sampleOf s.cfg (s.acc + s.inc))) :: s.trace := by unfold ddsTick; dsimp only; split <;> simp_all
@[simp] theorem ddsTick_rspPort (s : State) : (ddsTick s).rspPort = s.rspPort := by unfold ddsTick; dsimp only; split <;> simp_all
@[simp] theorem ddsTick_stimuli (s : State) : (ddsTick s).stimuli = s.stimuli := by unfold ddsTick; dsimp only; split <;> simp_all
@[simp] theorem ddsTick_cutWave (s : State) : (ddsTick s).cutWave = s.cutWave := by unfold ddsTick; dsimp only; split <;> simp_all
@[simp] theorem ddsTick_cuts (s : State) : (ddsTick s).cuts = s.cuts := by unfold ddsTick; dsimp only; split <;> simp_all

/-! `txStart` -/
@[simp] theorem txStart_cfg (s : State) : (txStart s).cfg = s.cfg := rfl
@[simp] theorem txStart_highHz (s : State) : (txStart s).highHz = s.highHz := rfl
@[simp] theorem txStart_lowHz (s : State) : (txStart s).lowHz = s.lowHz := rfl
@[simp] theorem txStart_baudC (s : State) : (txStart s).baudC = s.baudC := rfl
@[simp] theorem txStart_msg (s : State) : (txStart s).msg = s.msg := rfl
@[simp] theorem txStart_msgLen (s : State) : (txStart s).msgLen = s.msgLen := rfl
@[simp] theorem txStart_shift (s : State) : (txStart s).shift = s.shift := rfl
@[simp] theorem txStart_plan (s : State) : (txStart s).plan = s.plan := rfl
@[simp] theorem txStart_planLen (s : State) : (txStart s).planLen = s.planLen := rfl
@[simp] theorem txStart_planPos (s : State) : (txStart s).planPos = 0 := rfl
@[simp] theorem txStart_holdCnt (s : State) : (txStart s).holdCnt = holdTicksOf s.cfg s.baudC := rfl
@[simp] theorem txStart_incHigh (s : State) : (txStart s).incHigh = phaseInc s.cfg s.highHz := rfl
@[simp] theorem txStart_incLow (s : State) : (txStart s).incLow = phaseInc s.cfg s.lowHz := rfl
@[simp] theorem txStart_holdTicks (s : State) : (txStart s).holdTicks = holdTicksOf s.cfg s.baudC := rfl
@[simp] theorem txStart_acc (s : State) : (txStart s).acc = s.acc := rfl
@[simp] theorem txStart_inc (s : State) : (txStart s).inc = if s.planBit 0 then phaseInc s.cfg s.highHz else phaseInc s.cfg s.lowHz := rfl
@[simp] theorem txStart_curSample (s : State) : (txStart s).curSample = s.curSample := rfl
@[simp] theorem txStart_sentCnt (s : State) : (txStart s).sentCnt = s.sentCnt := rfl
@[simp] theorem txStart_pbActive (s : State) : (txStart s).pbActive = s.pbActive := rfl
@[simp] theorem txStart_pbDone (s : State) : (txStart s).pbDone = s.pbDone := rfl
@[simp] theorem txStart_arb (s : State) : (txStart s).arb = s.arb := rfl
@[simp] theorem txStart_ddsEn (s : State) : (txStart s).ddsEn = s.ddsEn := rfl
@[simp] theorem txStart_pbEn (s : State) : (txStart s).pbEn = s.pbEn := rfl
@[simp] theorem txStart_savedDdsEn (s : State) : (txStart s).savedDdsEn = s.savedDdsEn := rfl
@[simp] theorem txStart_memCs (s : State) : (txStart s).memCs = s.memCs := rfl
@[simp] theorem txStart_xpos (s : State) : (txStart s).xpos = s.xpos := rfl
@[simp] theorem txStart_xmem (s : State) : (txStart s).xmem = s.xmem := rfl
@[simp] theorem txStart_xmemTail (s : State) : (txStart s).xmemTail = s.xmemTail := rfl
@[simp] theorem txStart_bench (s : State) : (txStart s).bench = s.bench := rfl
@[simp] theorem txStart_trace (s : State) : (txStart s).trace = s.trace := rfl
@[simp] theorem txStart_rspPort (s : State) : (txStart s).rspPort = s.rspPort := rfl
@[simp] theorem txStart_stimuli (s : State) : (txStart s).stimuli = s.stimuli := rfl
@[simp] theorem txStart_cutWave (s : State) : (txStart s).cutWave = s.cutWave := rfl
@[simp] theorem txStart_cuts (s : State) : (txStart s).cuts = s.cuts := rfl

/-! `State.withFramer` -/
@[simp] theorem State.withFramer_cfg (f : Framer) (s : State) : (s.withFramer f).cfg = s.cfg := rfl
@[simp] theorem State.withFramer_highHz (f : Framer) (s : State) : (s.withFramer f).highHz = s.highHz := rfl
@[simp] theorem State.withFramer_lowHz (f : Framer) (s : State) : (s.withFramer f).lowHz = s.lowHz := rfl
@[simp] theorem State.withFramer_baudC (f : Framer) (s : State) : (s.withFramer f).baudC = s.baudC := rfl
@[simp] theorem State.withFramer_msg (f : Framer) (s : State) : (s.withFramer f).msg = s.msg := rfl
@[simp] theorem State.withFramer_msgLen (f : Framer) (s : State) : (s.withFramer f).msgLen = s.msgLen := rfl
@[simp] theorem State.withFramer_shift (f : Framer) (s : State) : (s.withFramer f).shift = f.shift := rfl
@[simp] theorem State.withFramer_plan (f : Framer) (s : State) : (s.withFramer f).plan = f.plan := rfl
@[simp] theorem State.withFramer_planLen (f : Framer) (s : State) : (s.withFramer f).planLen = f.planLen := rfl
@[simp] theorem State.withFramer_planPos (f : Framer) (s : State) : (s.withFramer f).planPos = s.planPos := rfl
@[simp] theorem State.withFramer_holdCnt (f : Framer) (s : State) : (s.withFramer f).holdCnt = s.holdCnt := rfl
@[simp] theorem State.withFramer_incHigh (f : Framer) (s : State) : (s.withFramer f).incHigh = s.incHigh := rfl
@[simp] theorem State.withFramer_incLow (f : Framer) (s : State) : (s.withFramer f).incLow = s.incLow := rfl
@[simp] theorem State.withFramer_holdTicks (f : Framer) (s : State) : (s.withFramer f).holdTicks = s.holdTicks := rfl
@[simp] theorem State.withFramer_acc (f : Framer) (s : State) : (s.withFramer f).acc = s.acc := rfl
@[simp] theorem State.withFramer_inc (f : Framer) (s : State) : (s.withFramer f).inc = s.inc := rfl
@[simp] theorem State.withFramer_curSample (f : Framer) (s : State) : (s.withFramer f).curSample = s.curSample := rfl
@[simp] theorem State.withFramer_sentCnt (f : Framer) (s : State) : (s.withFramer f).sentCnt = s.sentCnt := rfl
@[simp] theorem State.withFramer_pbActive (f : Framer) (s : State) : (s.withFramer f).pbActive = s.pbActive := rfl
@[simp] theorem State.withFramer_pbDone (f : Framer) (s : State) : (s.withFramer f).pbDone = s.pbDone := rfl
@[simp] theorem State.withFramer_arb (f : Framer) (s : State) : (s.withFramer f).arb = s.arb := rfl
@[simp] theorem State.withFramer_ddsEn (f : Framer) (s : State) : (s.withFramer f).ddsEn = s.ddsEn := rfl
@[simp] theorem State.withFramer_pbEn (f : Framer) (s : State) : (s.withFramer f).pbEn = s.pbEn := rfl
@[simp] theorem State.withFramer_savedDdsEn (f : Framer) (s : State) : (s.withFramer f).savedDdsEn = s.savedDdsEn := rfl
@[simp] theorem State.withFramer_memCs (f : Framer) (s : State) : (s.withFramer f).memCs = s.memCs := rfl
@[simp] theorem State.withFramer_xpos (f : Framer) (s : State) : (s.withFramer f).xpos = s.xpos := rfl
@[simp] theorem State.withFramer_xmem (f : Framer) (s : State) : (s.withFramer f).xmem = s.xmem := rfl
@[simp] theorem State.withFramer_xmemTail (f : Framer) (s : State) : (s.withFramer f).xmemTail = s.xmemTail := rfl
@[simp] theorem State.withFramer_bench (f : Framer) (s : State) : (s.withFramer f).bench = s.bench := rfl
@[simp] theorem State.withFramer_trace (f : Framer) (s : State) : (s.withFramer f).trace = s.trace := rfl
@[simp] theorem State.withFramer_rspPort (f : Framer) (s : State) : (s.withFramer f).rspPort = s.rspPort := rfl
@[simp] theorem State.withFramer_stimuli (f : Framer) (s : State) : (s.withFramer f).stimuli = s.stimuli := rfl
@[simp] theorem State.withFramer_cutWave (f : Framer) (s : State) : (s.withFramer f).cutWave = s.cutWave := rfl
@[simp] theorem State.withFramer_cuts (f : Framer) (s : State) : (s.withFramer f).cuts = s.cuts := rfl

/-! `losePosition` -/
@[simp] theorem losePosition_cfg (s : State) : (losePosition s).cfg = s.cfg := rfl
@[simp] theorem losePosition_highHz (s : State) : (losePosition s).highHz = s.highHz := rfl
@[simp] theorem losePosition_lowHz (s : State) : (losePosition s).lowHz = s.lowHz := rfl
@[simp] theorem losePosition_baudC (s : State) : (losePosition s).baudC = s.baudC := rfl
@[simp] theorem losePosition_msg (s : State) : (losePosition s).msg = s.msg := rfl
@[simp] theorem losePosition_msgLen (s : State) : (losePosition s).msgLen = s.msgLen := rfl
@[simp] theorem losePosition_shift (s : State) : (losePosition s).shift = s.shift := rfl
@[simp] theorem losePosition_plan (s : State) : (losePosition s).plan = s.plan := rfl
@[simp] theorem losePosition_planLen (s : State) : (losePosition s).planLen = s.planLen := rfl
@[simp] theorem losePosition_planPos (s : State) : (losePosition s).planPos = s.planPos := rfl
@[simp] theorem losePosition_holdCnt (s : State) : (losePosition s).holdCnt = s.holdCnt := rfl
@[simp] theorem losePosition_incHigh (s : State) : (losePosition s).incHigh = s.incHigh := rfl
@[simp] theorem losePosition_incLow (s : State) : (losePosition s).incLow = s.incLow := rfl
@[simp] theorem losePosition_holdTicks (s : State) : (losePosition s).holdTicks = s.holdTicks := rfl
@[simp] theorem losePosition_acc (s : State) : (losePosition s).acc = s.acc := rfl
@[simp] theorem losePosition_inc (s : State) : (losePosition s).inc = s.inc := rfl
@[simp] theorem losePosition_curSample (s : State) : (losePosition s).curSample = s.curSample := rfl
@[simp] theorem losePosition_sentCnt (s : State) : (losePosition s).sentCnt = s.sentCnt := rfl
@[simp] theorem losePosition_pbActive (s : State) : (losePosition s).pbActive = s.pbActive := rfl
@[simp] theorem losePosition_pbDone (s : State) : (losePosition s).pbDone = s.pbDone := rfl
@[simp] theorem losePosition_arb (s : State) : (losePosition s).arb = s.arb := rfl
@[simp] theorem losePosition_ddsEn (s : State) : (losePosition s).ddsEn = s.ddsEn := rfl
@[simp] theorem losePosition_pbEn (s : State) : (losePosition s).pbEn = s.pbEn := rfl
@[simp] theorem losePosition_savedDdsEn (s : State) : (losePosition s).savedDdsEn = s.savedDdsEn := rfl
@[simp] theorem losePosition_memCs (s : State) : (losePosition s).memCs = s.memCs := rfl
@[simp] theorem losePosition_xpos (s : State) : (losePosition s).xpos = Config.xposAfterCut s.cuts := rfl
@[simp] theorem losePosition_xmem (s : State) : (losePosition s).xmem = s.xmem := rfl
@[simp] theorem losePosition_xmemTail (s : State) : (losePosition s).xmemTail = s.xmemTail := rfl
@[simp] theorem losePosition_bench (s : State) : (losePosition s).bench = s.bench := rfl
@[simp] theorem losePosition_trace (s : State) : (losePosition s).trace = s.trace := rfl
@[simp] theorem losePosition_rspPort (s : State) : (losePosition s).rspPort = s.rspPort := rfl
@[simp] theorem losePosition_stimuli (s : State) : (losePosition s).stimuli = s.stimuli := rfl
@[simp] theorem losePosition_cutWave (s : State) : (losePosition s).cutWave = s.cutWave := rfl
@[simp] theorem losePosition_cuts (s : State) : (losePosition s).cuts = s.cuts + 1 := rfl

/-! `bitAdvance` -/
@[simp] theorem bitAdvance_cfg (s : State) : (bitAdvance s).cfg = s.cfg := by unfold bitAdvance; dsimp only; split <;> rfl
@[simp] theorem bitAdvance_highHz (s : State) : (bitAdvance s).highHz = s.highHz := by unfold bitAdvance; dsimp only; split <;> rfl
@[simp] theorem bitAdvance_lowHz (s : State) : (bitAdvance s).lowHz = s.lowHz := by unfold bitAdvance; dsimp only; split <;> rfl
@[simp] theorem bitAdvance_baudC (s : State) : (bitAdvance s).baudC = s.baudC := by unfold bitAdvance; dsimp only; split <;> rfl
@[simp] theorem bitAdvance_msg (s : State) : (bitAdvance s).msg = s.msg := by unfold bitAdvance; dsimp only; split <;> rfl
@[simp] theorem bitAdvance_msgLen (s : State) : (bitAdvance s).msgLen = s.msgLen := by unfold bitAdvance; dsimp only; split <;> rfl
@[simp] theorem bitAdvance_shift (s : State) : (bitAdvance s).shift = s.shift := by unfold bitAdvance; dsimp only; split <;> rfl
@[simp] theorem bitAdvance_plan (s : State) : (bitAdvance s).plan = s.plan := by unfold bitAdvance; dsimp only; split <;> rfl
@[simp] theorem bitAdvance_planLen (s : State) : (bitAdvance s).planLen = s.planLen := by unfold bitAdvance; dsimp only; split <;> rfl
@[simp] theorem bitAdvance_planPos (s : State) : (bitAdvance s).planPos = s.planPos + 1 := by unfold bitAdvance; dsimp only; split <;> rfl
@[simp] theorem bitAdvance_incHigh (s : State) : (bitAdvance s).incHigh = s.incHigh := by unfold bitAdvance; dsimp only; split <;> rfl
@[simp] theorem bitAdvance_incLow (s : State) : (bitAdvance s).incLow = s.incLow := by unfold bitAdvance; dsimp only; split <;> rfl
@[simp] theorem bitAdvance_holdTicks (s : State) : (bitAdvance s).holdTicks = s.holdTicks := by unfold bitAdvance; dsimp only; split <;> rfl
@[simp] theorem bitAdvance_acc (s : State) : (bitAdvance s).acc = s.acc := by unfold bitAdvance; dsimp only; split <;> rfl
@[simp] theorem bitAdvance_curSample (s : State) : (bitAdvance s).curSample = s.curSample := by unfold bitAdvance; dsimp only; split <;> rfl
@[simp] theorem bitAdvance_sentCnt (s : State) : (bitAdvance s).sentCnt = s.sentCnt := by unfold bitAdvance; dsimp only; split <;> rfl
@[simp] theorem bitAdvance_pbActive (s : State) : (bitAdvance s).pbActive = s.pbActive := by unfold bitAdvance; dsimp only; split <;> rfl
@[simp] theorem bitAdvance_pbDone (s : State) : (bitAdvance s).pbDone = s.pbDone := by unfold bitAdvance; dsimp only; split <;> rfl
@[simp] theorem bitAdvance_ddsEn (s : State) : (bitAdvance s).ddsEn = s.ddsEn := by unfold bitAdvance; dsimp only; split <;> rfl
@[simp] theorem bitAdvance_pbEn (s : State) : (bitAdvance s).pbEn = s.pbEn := by unfold bitAdvance; dsimp only; split <;> rfl
@[simp] theorem bitAdvance_savedDdsEn (s : State) : (bitAdvance s).savedDdsEn = s.savedDdsEn := by unfold bitAdvance; dsimp only; split <;> rfl
@[simp] theorem bitAdvance_memCs (s : State) : (bitAdvance s).memCs = s.memCs := by unfold bitAdvance; dsimp only; split <;> rfl
@[simp] theorem bitAdvance_xpos (s : State) : (bitAdvance s).xpos = s.xpos := by unfold bitAdvance; dsimp only; split <;> rfl
@[simp] theorem bitAdvance_xmem (s : State) : (bitAdvance s).xmem = s.xmem := by unfold bitAdvance; dsimp only; split <;> rfl
@[simp] theorem bitAdvance_xmemTail (s : State) : (bitAdvance s).xmemTail = s.xmemTail := by unfold bitAdvance; dsimp only; split <;> rfl
@[simp] theorem bitAdvance_bench (s : State) : (bitAdvance s).bench = s.bench := by unfold bitAdvance; dsimp only; split <;> rfl
@[simp] theorem bitAdvance_trace (s : State) : (bitAdvance s).trace = s.trace := by unfold bitAdvance; dsimp only; split <;> rfl
@[simp] theorem bitAdvance_rspPort (s : State) : (bitAdvance s).rspPort = s.rspPort := by unfold bitAdvance; dsimp only; split <;> rfl
@[simp] theorem bitAdvance_stimuli (s : State) : (bitAdvance s).stimuli = s.stimuli := by unfold bitAdvance; dsimp only; split <;> rfl
@[simp] theorem bitAdvance_cutWave (s : State) : (bitAdvance s).cutWave = s.cutWave := by unfold bitAdvance; dsimp only; split <;> rfl
@[simp] theorem bitAdvance_cuts (s : State) : (bitAdvance s).cuts = s.cuts := by unfold bitAdvance; dsimp only; split <;> rfl

end Sys2Proof.Machine
end

