-- ==== Sys2Proof/Laws/Ops.lean ====
section
/-! SUPPORT. One specification lemma for each shared operation: what it can do, said once. -/

namespace Sys2Proof.Machine

@[simp] theorem whenIdle_idle (f : State → State) {s : State} (h : s.arb = .idle) : whenIdle f s = .next (f s) := by
  simp [whenIdle, h]

@[simp] theorem whenIdle_busy (f : State → State) {s : State} (h : s.arb ≠ .idle) : whenIdle f s = .next s := by
  simp [whenIdle, h]

@[simp] theorem frame_length (k : Code) : (frame k).length = 8 := rfl

/-- The parameter bounds of 00_scope.md R6, one field each. -/
theorem paramsLawful_spec {cfg : Config} (h : paramsLawful cfg = true) :
    0 < cfg.fDds ∧ cfg.fDds ≤ 42949672 ∧ 1 ≤ cfg.sentThresh ∧ cfg.planMax < 8192 ∧ cfg.defBaudC ≠ 0
      ∧ cfg.sentinel = 0xFF ∧ cfg.memStart = 0 ∧ tablesLawful cfg = true := by
  simp only [paramsLawful, Bool.and_eq_true, decide_eq_true_eq, bne_iff_ne, beq_iff_eq] at h
  obtain ⟨⟨⟨⟨⟨⟨⟨⟨⟨⟨⟨h₁, h₂⟩, -⟩, h₃⟩, -⟩, -⟩, -⟩, h₄⟩, h₅⟩, h₆⟩, h₇⟩, h₈⟩ := h
  exact ⟨h₁, h₂, h₃, h₄, h₅, h₆, h₇, h₈⟩

/-! The framer. -/

/-- Appending a symbol that fits advances PLAN_LEN by 8; one that does not leaves the plan. -/
theorem appendSym_fits {cfg : Config} (k : Code) {f : Framer} (h : f.planLen.toNat + 8 ≤ cfg.planMax) :
    appendSym cfg k f =
      { f with plan := Memory.writeAll f.plan f.planLen.toNat (frame k), planLen := f.planLen + 8 } := by
  simp [appendSym, h]

theorem appendSym_full {cfg : Config} (k : Code) {f : Framer} (h : cfg.planMax < f.planLen.toNat + 8) :
    appendSym cfg k f = f := by
  simp [appendSym, Nat.not_le.mpr h]

@[simp] theorem appendSym_shift (cfg : Config) (k : Code) (f : Framer) : (appendSym cfg k f).shift = f.shift := by
  unfold appendSym
  split <;> rfl

theorem appendSym_planLen_toNat {cfg : Config} (hc : cfg.planMax < 8192) (k : Code) {f : Framer}
    (h : f.planLen.toNat + 8 ≤ cfg.planMax) : (appendSym cfg k f).planLen.toNat = f.planLen.toNat + 8 := by
  rw [appendSym_fits k h]
  show (f.planLen + 8).toNat = _
  rw [BitVec.toNat_add]
  simp
  omega

theorem appendSym_bit {cfg : Config} (k : Code) {f : Framer} (h : f.planLen.toNat + 8 ≤ cfg.planMax) (i : Nat) :
    (appendSym cfg k f).bit i =
      if f.planLen.toNat ≤ i ∧ i < f.planLen.toNat + 8 then (frame k).getD (i - f.planLen.toNat) false
      else f.bit i := by
  rw [appendSym_fits k h]
  show (Memory.read (Memory.writeAll _ _ _) i).getD _ = _
  rw [Memory.read_writeAll]
  by_cases hi : f.planLen.toNat ≤ i ∧ i < f.planLen.toNat + 8
  · have hi' : f.planLen.toNat ≤ i ∧ i < f.planLen.toNat + (frame k).length := hi
    have hl : i - f.planLen.toNat < (frame k).length := by rw [frame_length]; omega
    rw [if_pos hi', if_pos hi, List.getD, List.getElem?_eq_getElem hl]
    rfl
  · have hi' : ¬ (f.planLen.toNat ≤ i ∧ i < f.planLen.toNat + (frame k).length) := hi
    rw [if_neg hi', if_neg hi]
    rfl

/-- The plan after a symbol that fits: the symbol's eight bits behind the old plan. -/
theorem appendSym_bits {cfg : Config} (hc : cfg.planMax < 8192) (k : Code) {f : Framer}
    (h : f.planLen.toNat + 8 ≤ cfg.planMax) : (appendSym cfg k f).bits = f.bits ++ frame k := by
  unfold Framer.bits
  rw [appendSym_planLen_toNat hc k h, List.range_add, List.map_append]
  congr 1
  · refine List.map_congr_left (fun i hi => ?_)
    have := List.mem_range.mp hi
    rw [appendSym_bit k h, if_neg (by omega)]
  · apply List.ext_getElem
    · simp
    · intro i h₁ h₂
      have hi : i < 8 := by simpa using h₂
      simp only [List.map_map, List.getElem_map, List.getElem_range, Function.comp_apply]
      rw [appendSym_bit k h, if_pos (by omega)]
      have e : f.planLen.toNat + i - f.planLen.toNat = i := by omega
      rw [e, List.getD, List.getElem?_eq_getElem h₂]
      rfl

theorem appendSym_wf (cfg : Config) (k : Code) {f : Framer} (h : Memory.wf f.plan) :
    Memory.wf (appendSym cfg k f).plan := by
  unfold appendSym
  split
  · exact Memory.wf_writeAll _ h _
  · exact h

/-- Writing one message character: what it changes when the buffer has room. -/
theorem msgPut_room (c : Byte) {s : State} (h : s.msgLen.toNat < s.cfg.msgMax) :
    msgPut c s = { s with msg := Memory.write s.msg s.msgLen.toNat c, msgLen := s.msgLen + 1 } := by
  simp [msgPut, h]

theorem msgPut_full (c : Byte) {s : State} (h : s.cfg.msgMax ≤ s.msgLen.toNat) : msgPut c s = s := by
  simp [msgPut, Nat.not_lt.mpr h]

theorem msgPut_wf (c : Byte) {s : State} (h : Memory.wf s.msg) : Memory.wf (msgPut c s).msg := by
  unfold msgPut
  split
  · exact Memory.wf_write h _ _
  · exact h

/-! The step, by what the outside does. -/

theorem stepOn_nil {mem : Nat → Byte} {s : State} (h : s.stimuli = []) : stepOn mem s = ownStep mem (beginStep s) := by
  simp [stepOn, runStep, h]

theorem stepOn_quiet {mem : Nat → Byte} {s : State} {r : List Stimulus} (h : s.stimuli = .quiet :: r) :
    stepOn mem s = ownStep mem (beginStep { s with stimuli := r }) := by
  simp [stepOn, runStep, h]

theorem stepOn_rst {mem : Nat → Byte} {s : State} {r : List Stimulus} (h : s.stimuli = .rst :: r) :
    stepOn mem s = .next (applyReset { s with stimuli := r }) := by
  simp [stepOn, h]

theorem stepOn_cut {mem : Nat → Byte} {s : State} {n : Nat} {r : List Stimulus} (h : s.stimuli = .cut n :: r) :
    stepOn mem s = .next (cutStep mem n { s with stimuli := r }) := by
  simp [stepOn, h]

theorem stepOn_unit {mem : Nat → Byte} {s : State} {f : Format} {w : BitVec 32} {r : List Stimulus}
    (h : s.stimuli = .unit f w :: r) :
    stepOn mem s = if bothEnabled s then .fault .bothSourcesEnabled
      else if ready f s then runUnit f w (beginStep { s with stimuli := r }) else ownStep mem (beginStep s) := by
  simp [stepOn, runStep, h]

/-- Everything the block's own agents can do in one step. -/
theorem ownStep_cases {mem : Nat → Byte} {s t : State} (h : ownStep mem s = .next t) :
    (s.arb = .rttyActive ∧ s.holdCnt = 0 ∧ t = bitAdvance s)
    ∨ (s.arb = .playbackActive ∧ s.pbDone = true ∧ t = playComplete s)
    ∨ (¬ (s.arb = .rttyActive ∧ s.holdCnt = 0) ∧ ¬ (s.arb = .playbackActive ∧ s.pbDone = true)
        ∧ s.ddsEn = true ∧ s.pbEn = false ∧ t = ddsTick s)
    ∨ (¬ (s.arb = .rttyActive ∧ s.holdCnt = 0) ∧ ¬ (s.arb = .playbackActive ∧ s.pbDone = true)
        ∧ s.ddsEn = false ∧ s.pbEn = true ∧ t = pbTick (mem s.xpos) s)
    ∨ (s.ddsEn = false ∧ s.pbEn = false ∧ t = s) := by
  unfold ownStep at h
  split at h
  · cases h
  rename_i hb
  simp [bothEnabled] at hb
  split at h
  · rename_i h₁
    cases h
    exact .inl ⟨h₁.1, h₁.2, rfl⟩
  rename_i h₁
  split at h
  · rename_i h₂
    cases h
    exact .inr (.inl ⟨h₂.1, h₂.2, rfl⟩)
  rename_i h₂
  split at h
  · rename_i h₃
    cases h
    exact .inr (.inr (.inl ⟨h₁, h₂, h₃, hb h₃, rfl⟩))
  rename_i h₃
  have h₃' : s.ddsEn = false := by simpa using h₃
  split at h
  · rename_i h₄
    simp [exec, execMembyte, h₄] at h
    exact .inr (.inr (.inr (.inl ⟨h₁, h₂, h₃', h₄, h.symm⟩)))
  · rename_i h₄
    cases h
    exact .inr (.inr (.inr (.inr ⟨h₃', by simpa using h₄, rfl⟩)))

/-! The periodic operations, as the records they make. -/

/-- One DDS tick. -/
theorem ddsTick_spec (s : State) :
    ddsTick s = { s with
      acc := s.acc + s.inc
      trace := .dac (dacFrame s.cfg (sampleOf s.cfg (s.acc + s.inc))) :: s.trace
      holdCnt := if s.arb = .rttyActive ∧ s.holdCnt ≠ 0 then s.holdCnt - 1 else s.holdCnt } := by
  unfold ddsTick
  dsimp only [dacWrite, emit]
  split <;> rfl

/-- BIT_ADVANCE past the last bit. -/
theorem bitAdvance_last {s : State} (h : s.planPos + 1 = s.planLen) :
    bitAdvance s = { s with planPos := s.planPos + 1, inc := 0, arb := .idle } := by
  unfold bitAdvance
  dsimp only
  rw [if_pos h]

/-- BIT_ADVANCE to a further bit. -/
theorem bitAdvance_next {s : State} (h : s.planPos + 1 ≠ s.planLen) :
    bitAdvance s = { s with
      planPos := s.planPos + 1, inc := s.sel (s.planBit (s.planPos + 1).toNat), holdCnt := s.holdTicks } := by
  unfold bitAdvance
  dsimp only
  rw [if_neg h]
  rfl

/-- A playback tick that leaves the playback running. -/
theorem pbTick_runs {b : Byte} {s : State} (h : sentAfter s.cfg b s.sentCnt < s.cfg.sentThresh) :
    pbTick b s = { s with
      curSample := b, sentCnt := sentAfter s.cfg b s.sentCnt, xpos := s.xpos + 1
      trace := .memRd b :: .dac (dacFrame s.cfg s.curSample) :: s.trace } := by
  have h' : ¬ (s.cfg.sentThresh ≤ sentAfter s.cfg b s.sentCnt) := Nat.not_le.mpr h
  unfold pbTick
  dsimp only [memLinkReadByte, dacWrite, emit]
  rw [if_neg h']

/-- A playback tick that completes the run of sentinels. -/
theorem pbTick_ends {b : Byte} {s : State} (h : s.cfg.sentThresh ≤ sentAfter s.cfg b s.sentCnt) :
    pbTick b s = { s with
      curSample := 0, sentCnt := 0, xpos := s.xpos + 1, memCs := false, pbEn := false, pbActive := false, pbDone := true
      trace := .memDesel :: .memRd b :: .dac (dacFrame s.cfg s.curSample) :: s.trace } := by
  unfold pbTick
  dsimp only [memLinkReadByte, dacWrite, emit]
  rw [if_pos h]
  rfl

/-- PLAY_ACCEPT. -/
theorem playAccept_spec (s : State) :
    playAccept s = { s with
      arb := .playbackActive, savedDdsEn := s.ddsEn, ddsEn := false, curSample := 0, sentCnt := 0, pbActive := true
      pbDone := false, memCs := true, xpos := 0, pbEn := true
      trace := .memCmd (memHeader s.cfg) :: .memSel :: s.trace } := rfl

/-! Reset. -/

/-- A reset that cut `part`. -/
theorem resetCutting_spec (part : List BusLines) (s : State) :
    resetCutting part s = { State.resetWith s.cfg with
      xpos := s.xpos, xmem := s.xmem, xmemTail := s.xmemTail, bench := s.bench, stimuli := s.stimuli, cutWave := part
      cuts := s.cuts, trace := if s.memCs then Event.memDesel :: s.trace else s.trace } := by
  unfold resetCutting
  dsimp only
  split <;> rfl

/-- What an observed event changes: the trace, the chip-select and the position at most. -/
theorem observe_record (e : Event) (s : State) :
    observe e s = { s with
      trace := e :: s.trace, memCs := (observe e s).memCs, xpos := (observe e s).xpos } := by
  cases e <;> rfl

theorem observeAll_record (es : List Event) (s : State) :
    es.foldl (fun u e => observe e u) s = { s with
      trace := es.reverse ++ s.trace
      memCs := (es.foldl (fun u e => observe e u) s).memCs, xpos := (es.foldl (fun u e => observe e u) s).xpos } := by
  induction es generalizing s with
  | nil => rfl
  | cons e es ih =>
    have h := ih (observe e s)
    show es.foldl (fun u e => observe e u) (observe e s) = { s with
      trace := (e :: es).reverse ++ s.trace
      memCs := (es.foldl (fun u e => observe e u) (observe e s)).memCs
      xpos := (es.foldl (fun u e => observe e u) (observe e s)).xpos }
    generalize es.foldl (fun u e => observe e u) (observe e s) = u at h ⊢
    rw [observe_record e s] at h
    rw [h]
    simp

/-- A reset within a step leaves the block as any reset does; of what is outside the block it writes the trace, XPOS and
the record of the cut. -/
theorem resetWithin_record (done : List Event) (part : List BusLines) (s : State) :
    resetWithin done part s = { State.resetWith s.cfg with
      xmem := s.xmem, xmemTail := s.xmemTail, bench := s.bench, stimuli := s.stimuli, cutWave := part
      xpos := (resetWithin done part s).xpos, cuts := (resetWithin done part s).cuts
      trace := (resetWithin done part s).trace } := by
  have h := observeAll_record done s
  unfold resetWithin
  dsimp only
  generalize done.foldl (fun u e => observe e u) s = u at h ⊢
  rw [h]
  split <;> rw [resetCutting_spec] <;> rfl

/-! The plan: symbols appended one after another. -/

/-- The symbols of a list of codes appended in order. -/
def appendSyms (cfg : Config) (ks : List Code) (f : Framer) : Framer := ks.foldl (fun g k => appendSym cfg k g) f

theorem appendSyms_append (cfg : Config) (xs ys : List Code) (f : Framer) :
    appendSyms cfg (xs ++ ys) f = appendSyms cfg ys (appendSyms cfg xs f) := by
  simp [appendSyms, List.foldl_append]

theorem appendSym_withShift (cfg : Config) (k : Code) (t : Shift) (f : Framer) :
    appendSym cfg k { f with shift := t } = { appendSym cfg k f with shift := t } := by
  unfold appendSym
  dsimp only
  split <;> rfl

theorem appendSyms_withShift (cfg : Config) (ks : List Code) (t : Shift) (f : Framer) :
    appendSyms cfg ks { f with shift := t } = { appendSyms cfg ks f with shift := t } := by
  induction ks generalizing f with
  | nil => rfl
  | cons k ks ih =>
    show appendSyms cfg ks (appendSym cfg k { f with shift := t }) = _
    rw [appendSym_withShift, ih]
    rfl

/-- The per-character rule appends the character's codes and leaves the shift state after them. -/
theorem putChar_spec (cfg : Config) (c : Byte) (f : Framer) :
    putChar cfg c f =
      { appendSyms cfg (charCodes cfg f.shift c).1 f with shift := (charCodes cfg f.shift c).2 } := by
  unfold putChar charCodes
  cases h : lookup cfg c f.shift with
  | some k =>
    show appendSym cfg k f = { appendSym cfg k f with shift := f.shift }
    unfold appendSym
    split <;> rfl
  | none =>
    cases h' : lookup cfg c f.shift.other with
    | none => rfl
    | some k =>
      exact appendSyms_withShift cfg [shiftCode cfg f.shift.other, k] f.shift.other f

theorem foldl_putChar (cfg : Config) (cs : List Byte) (f : Framer) :
    cs.foldl (fun g c => putChar cfg c g) f =
      { appendSyms cfg (textCodes cfg f.shift cs).1 f with shift := (textCodes cfg f.shift cs).2 } := by
  induction cs generalizing f with
  | nil => rfl
  | cons c cs ih =>
    show cs.foldl _ (putChar cfg c f) = _
    rw [putChar_spec, ih]
    simp only [textCodes, appendSyms_append, appendSyms_withShift]

theorem putPreamble_spec (cfg : Config) (c : Byte) (f : Framer) :
    putPreamble cfg c f = appendSyms cfg (lookup cfg c .letters).toList f := by
  unfold putPreamble
  cases lookup cfg c .letters <;> rfl

@[simp] theorem appendSyms_shift (cfg : Config) (ks : List Code) (f : Framer) : (appendSyms cfg ks f).shift = f.shift := by
  induction ks generalizing f with
  | nil => rfl
  | cons k ks ih => exact (ih _).trans (appendSym_shift cfg k f)

/-- BUILDPLAN appends the codes of the whole plan to an empty plan. -/
theorem buildPlan_spec (cfg : Config) (message : List Byte) (f : Framer) :
    buildPlan cfg message f =
      { appendSyms cfg (planCodes cfg message) { f with planLen := 0 } with
        shift := (textCodes cfg (initialShift cfg message) message).2 } := by
  unfold buildPlan
  dsimp only
  rw [foldl_putChar, putPreamble_spec, putPreamble_spec]
  simp only [appendSym_shift, appendSyms_shift]
  have e (k : Code) (g : Framer) : appendSym cfg k g = appendSyms cfg [k] g := rfl
  rw [e, ← appendSyms_append, ← appendSyms_append, ← appendSyms_append]
  rw [show ({ f with planLen := 0, shift := initialShift cfg message } : Framer)
    = { ({ f with planLen := 0 } : Framer) with shift := initialShift cfg message } from rfl]
  rw [appendSyms_withShift]
  simp only [planCodes, List.append_assoc, List.cons_append, List.nil_append]

/-- Codes that fit: the plan grows by their frames, and every other cell reads as before. -/
theorem appendSyms_fits {cfg : Config} (hc : cfg.planMax < 8192) (ks : List Code) {f : Framer}
    (h : f.planLen.toNat + 8 * ks.length ≤ cfg.planMax) :
    (appendSyms cfg ks f).bits = f.bits ++ framedBits ks
      ∧ (appendSyms cfg ks f).planLen.toNat = f.planLen.toNat + 8 * ks.length
      ∧ ∀ a, (a < f.planLen.toNat ∨ f.planLen.toNat + 8 * ks.length ≤ a) →
          Memory.read (appendSyms cfg ks f).plan a = Memory.read f.plan a := by
  induction ks generalizing f with
  | nil => exact ⟨by simp [appendSyms, framedBits], rfl, fun _ _ => rfl⟩
  | cons k ks ih =>
    rw [List.length_cons] at h
    have h₁ : f.planLen.toNat + 8 ≤ cfg.planMax := by omega
    have hl := appendSym_planLen_toNat hc k h₁
    obtain ⟨hb, hn, hm⟩ := ih (f := appendSym cfg k f) (by omega)
    refine ⟨?_, ?_, ?_⟩
    · show (appendSyms cfg ks (appendSym cfg k f)).bits = _
      rw [hb, appendSym_bits hc k h₁, List.append_assoc]
      rfl
    · show (appendSyms cfg ks (appendSym cfg k f)).planLen.toNat = _
      rw [hn, hl, List.length_cons]
      omega
    · intro a ha
      show Memory.read (appendSyms cfg ks (appendSym cfg k f)).plan a = _
      rw [List.length_cons] at ha
      rw [hm a (by omega), appendSym_fits k h₁]
      show Memory.read (Memory.writeAll _ _ _) a = _
      rw [Memory.read_writeAll, frame_length, if_neg (by omega)]

theorem appendSyms_wf (cfg : Config) (ks : List Code) {f : Framer} (h : Memory.wf f.plan) :
    Memory.wf (appendSyms cfg ks f).plan := by
  induction ks generalizing f with
  | nil => exact h
  | cons k ks ih => exact ih (appendSym_wf cfg k h)

/-! The block's own step. -/

theorem ownStep_stimuli {mem : Nat → Byte} {s t : State} (h : ownStep mem s = .next t) : t.stimuli = s.stimuli := by
  rcases ownStep_cases h with ⟨_, _, rfl⟩ | ⟨_, _, rfl⟩ | ⟨_, _, _, _, rfl⟩ | ⟨_, _, _, _, rfl⟩ | ⟨_, _, rfl⟩ <;> try simp
  unfold pbTick
  dsimp only
  split <;> simp

theorem ownStep_total {mem : Nat → Byte} {s : State} (h : ¬ (s.ddsEn = true ∧ s.pbEn = true)) :
    ∃ t, ownStep mem s = .next t := by
  unfold ownStep
  rw [if_neg (by simpa [bothEnabled] using h)]
  split
  · exact ⟨_, rfl⟩
  split
  · exact ⟨_, rfl⟩
  split
  · exact ⟨_, rfl⟩
  split
  · exact ⟨_, rfl⟩
  · exact ⟨_, rfl⟩

end Sys2Proof.Machine
end

