-- ==== Sys2Proof/Laws/Exec.lean ====
section
/-! SUPPORT. What the instructions can do, said once, and how runs compose. -/

namespace Sys2Proof.Machine

/-- What the meaning of an instruction does to the state, one constructor a kind of effect. -/
inductive Effect (i : Instr) (s : State) : State → Prop where
  | same : Effect i s s
  | cleared (idle : s.arb = .idle) (isMsgclr : i = .msgclr) : Effect i s { s with msgLen := 0 }
  | put (idle : s.arb = .idle) (c : Byte) (isMsgput : i = .msgput c) : Effect i s (msgPut c s)
  | sent (idle : s.arb = .idle) (isSend : i = .send) : Effect i s (sendAccept s)
  | played (idle : s.arb = .idle) (isPlay : i = .play) : Effect i s (playAccept s)
  | tone (idle : s.arb = .idle) (isCommand : i.format = .cmd32) (hi lo b : BitVec 16)
      (pos : s.baudC ≠ 0 → s.cfg.defBaudC ≠ 0 → b ≠ 0) : Effect i s { s with highHz := hi, lowHz := lo, baudC := b }
  | response (idle : s.arb = .idle) (isCommand : i.format = .cmd32) (v : BitVec 32) : Effect i s (respond v s)
  | benched (notCommand : i.format ≠ .cmd32) (notByte : i.format ≠ .memByte) (b : Bench) : Effect i s { s with bench := b }
  | tick (b : Byte) (isMembyte : i = .membyte b) (enabled : s.pbEn = true) : Effect i s (pbTick b s)

theorem whenIdle_next {f : State → State} {s t : State} (h : whenIdle f s = .next t) :
    t = if s.arb = .idle then f s else s := by
  unfold whenIdle at h
  cases h
  rfl

/-- An operation of the main sequence: its effect in Idle, none otherwise. -/
theorem Effect.ofWhenIdle {i : Instr} {f : State → State} {s t : State} (h : whenIdle f s = .next t)
    (e : s.arb = .idle → Effect i s (f s)) : Effect i s t := by
  rw [whenIdle_next h]
  split
  · rename_i ha
    exact e ha
  · exact .same

/-- Every next state of an instruction is one of its effects. -/
theorem exec_effect {i : Instr} {s t : State} (h : exec i s = .next t) : Effect i s t := by
  cases i
  case nop => cases h; exact .same
  case msgclr => exact .ofWhenIdle (f := fun s => { s with msgLen := 0 }) h (fun ha => .cleared ha rfl)
  case msgput c => exact .ofWhenIdle h (fun ha => .put ha c rfl)
  case send => exact .ofWhenIdle h (fun ha => .sent ha rfl)
  case play => exact .ofWhenIdle h (fun ha => .played ha rfl)
  case sethi f =>
    exact .ofWhenIdle (f := fun s => { s with highHz := f }) h (fun ha => .tone ha rfl f s.lowHz s.baudC (fun hb _ => hb))
  case setlo f =>
    exact .ofWhenIdle (f := fun s => { s with lowHz := f }) h (fun ha => .tone ha rfl s.highHz f s.baudC (fun hb _ => hb))
  case setbaud b =>
    refine .ofWhenIdle (f := fun s => if b ≠ 0 then { s with baudC := b } else s) h (fun ha => ?_)
    by_cases hb : b = 0
    · simp only [hb, ne_eq, not_true_eq_false, if_false]
      exact .same
    · simp only [hb, ne_eq, not_false_eq_true, if_true]
      exact .tone ha rfl s.highHz s.lowHz b (fun _ _ => hb)
  case rsttone =>
    exact .ofWhenIdle
      (f := fun s => { s with highHz := s.cfg.defHighHz, lowHz := s.cfg.defLowHz, baudC := s.cfg.defBaudC })
      h (fun ha => .tone ha rfl _ _ _ (fun _ hd => hd))
  case gethi => exact .ofWhenIdle (f := fun s => respond (zext32 s.highHz) s) h (fun ha => .response ha rfl _)
  case getlo => exact .ofWhenIdle (f := fun s => respond (zext32 s.lowHz) s) h (fun ha => .response ha rfl _)
  case getbaud => exact .ofWhenIdle (f := fun s => respond (zext32 s.baudC) s) h (fun ha => .response ha rfl _)
  case reservedC => cases h; exact .same
  case reservedD => cases h; exact .same
  case reservedE => cases h; exact .same
  case reservedF => cases h; exact .same
  case status => cases h; exact .same
  case membyte b =>
    change Host.Outcome.next (if s.pbEn then pbTick b s else s) = .next t at h
    split at h <;> cases h
    · rename_i hp
      exact .tick b rfl hp
    · exact .same
  all_goals
    cases h
    exact .benched (by nofun) (by nofun) _

/-- A run of `a + b` steps is a run of `b` steps after one of `a`. -/
theorem stepNOn_add {mem : Nat → Byte} {a b : Nat} {s t : State} (h : stepNOn mem a s = .next t) :
    stepNOn mem (a + b) s = stepNOn mem b t := by
  induction a generalizing s with
  | zero =>
    cases h
    rw [Nat.zero_add]
  | succ a ih =>
    rw [show a + 1 + b = (a + b) + 1 by omega]
    simp only [stepNOn] at h ⊢
    cases hs : stepOn mem s with
    | next u =>
      rw [hs] at h
      exact ih h
    | fault r =>
      rw [hs] at h
      cases h
    | refused r =>
      rw [hs] at h
      cases h

end Sys2Proof.Machine
end

