-- ==== Sys2Proof/Laws/PerInstr.lean ====
section
/-! SUPPORT. Statements made per constructor of `Instr`. `FormatFits`: the word of a unit fits the width of its format
(30_encoding.md R90). -/

namespace Sys2Proof.Laws

/-- The word of the unit sets no bit above its format's width, whatever the parameters. -/
def FormatFits.Statement (i : Instr) : Prop :=
  ∀ cfg : Config, (encode cfg i).toNat < 2 ^ i.format.width

theorem setWidth_lt {n : Nat} (v : BitVec n) : (v.setWidth 32).toNat < 2 ^ n := by
  rw [BitVec.toNat_setWidth]
  exact Nat.lt_of_le_of_lt (Nat.mod_le _ _) v.isLt

theorem FormatFits.nop : Statement .nop := fun _ => of_decide_eq_true rfl
theorem FormatFits.msgclr : Statement .msgclr := fun _ => of_decide_eq_true rfl
theorem FormatFits.msgput (c : BitVec 8) : Statement (.msgput c) := fun _ => BitVec.isLt _
theorem FormatFits.send : Statement .send := fun _ => of_decide_eq_true rfl
theorem FormatFits.play : Statement .play := fun _ => of_decide_eq_true rfl
theorem FormatFits.sethi (f : BitVec 16) : Statement (.sethi f) := fun _ => BitVec.isLt _
theorem FormatFits.setlo (f : BitVec 16) : Statement (.setlo f) := fun _ => BitVec.isLt _
theorem FormatFits.setbaud (b : BitVec 16) : Statement (.setbaud b) := fun _ => BitVec.isLt _
theorem FormatFits.rsttone : Statement .rsttone := fun _ => of_decide_eq_true rfl
theorem FormatFits.gethi : Statement .gethi := fun _ => of_decide_eq_true rfl
theorem FormatFits.getlo : Statement .getlo := fun _ => of_decide_eq_true rfl
theorem FormatFits.getbaud : Statement .getbaud := fun _ => of_decide_eq_true rfl
theorem FormatFits.reservedC : Statement .reservedC := fun _ => of_decide_eq_true rfl
theorem FormatFits.reservedD : Statement .reservedD := fun _ => of_decide_eq_true rfl
theorem FormatFits.reservedE : Statement .reservedE := fun _ => of_decide_eq_true rfl
theorem FormatFits.reservedF : Statement .reservedF := fun _ => of_decide_eq_true rfl
theorem FormatFits.rsp (v : BitVec 16) : Statement (.rsp v) := fun _ => Nat.lt_trans (setWidth_lt v) (show 2 ^ 16 < 2 ^ 32 by decide)
theorem FormatFits.status (d : Bool) (a : Bool) (p : Bool) (e : Bool) (sh : Bool) (k : BitVec 2) : Statement (.status d a p e sh k) := fun _ => setWidth_lt _
theorem FormatFits.sym (k : BitVec 5) : Statement (.sym k) := fun _ => setWidth_lt _
theorem FormatFits.symCr : Statement .symCr := fun _ => setWidth_lt _
theorem FormatFits.symLf : Statement .symLf := fun _ => setWidth_lt _
theorem FormatFits.symLtrs : Statement .symLtrs := fun _ => setWidth_lt _
theorem FormatFits.symFigs : Statement .symFigs := fun _ => setWidth_lt _
theorem FormatFits.dacframe (x : BitVec 8) : Statement (.dacframe x) := fun _ => setWidth_lt _
theorem FormatFits.memcmd : Statement .memcmd := fun _ => BitVec.isLt _
theorem FormatFits.membyte (b : BitVec 8) : Statement (.membyte b) := fun _ => setWidth_lt _
theorem FormatFits.ltrsE : Statement .ltrsE := fun _ => setWidth_lt _
theorem FormatFits.ltrsLf : Statement .ltrsLf := fun _ => setWidth_lt _
theorem FormatFits.ltrsA : Statement .ltrsA := fun _ => setWidth_lt _
theorem FormatFits.ltrsSp : Statement .ltrsSp := fun _ => setWidth_lt _
theorem FormatFits.ltrsS : Statement .ltrsS := fun _ => setWidth_lt _
theorem FormatFits.ltrsI : Statement .ltrsI := fun _ => setWidth_lt _
theorem FormatFits.ltrsU : Statement .ltrsU := fun _ => setWidth_lt _
theorem FormatFits.ltrsCr : Statement .ltrsCr := fun _ => setWidth_lt _
theorem FormatFits.ltrsD : Statement .ltrsD := fun _ => setWidth_lt _
theorem FormatFits.ltrsR : Statement .ltrsR := fun _ => setWidth_lt _
theorem FormatFits.ltrsJ : Statement .ltrsJ := fun _ => setWidth_lt _
theorem FormatFits.ltrsN : Statement .ltrsN := fun _ => setWidth_lt _
theorem FormatFits.ltrsF : Statement .ltrsF := fun _ => setWidth_lt _
theorem FormatFits.ltrsC : Statement .ltrsC := fun _ => setWidth_lt _
theorem FormatFits.ltrsK : Statement .ltrsK := fun _ => setWidth_lt _
theorem FormatFits.ltrsT : Statement .ltrsT := fun _ => setWidth_lt _
theorem FormatFits.ltrsZ : Statement .ltrsZ := fun _ => setWidth_lt _
theorem FormatFits.ltrsL : Statement .ltrsL := fun _ => setWidth_lt _
theorem FormatFits.ltrsW : Statement .ltrsW := fun _ => setWidth_lt _
theorem FormatFits.ltrsH : Statement .ltrsH := fun _ => setWidth_lt _
theorem FormatFits.ltrsY : Statement .ltrsY := fun _ => setWidth_lt _
theorem FormatFits.ltrsP : Statement .ltrsP := fun _ => setWidth_lt _
theorem FormatFits.ltrsQ : Statement .ltrsQ := fun _ => setWidth_lt _
theorem FormatFits.ltrsO : Statement .ltrsO := fun _ => setWidth_lt _
theorem FormatFits.ltrsB : Statement .ltrsB := fun _ => setWidth_lt _
theorem FormatFits.ltrsG : Statement .ltrsG := fun _ => setWidth_lt _
theorem FormatFits.ltrsM : Statement .ltrsM := fun _ => setWidth_lt _
theorem FormatFits.ltrsX : Statement .ltrsX := fun _ => setWidth_lt _
theorem FormatFits.ltrsV : Statement .ltrsV := fun _ => setWidth_lt _
theorem FormatFits.figs3 : Statement .figs3 := fun _ => setWidth_lt _
theorem FormatFits.figsLf : Statement .figsLf := fun _ => setWidth_lt _
theorem FormatFits.figsMinus : Statement .figsMinus := fun _ => setWidth_lt _
theorem FormatFits.figsSp : Statement .figsSp := fun _ => setWidth_lt _
theorem FormatFits.figsApostrophe : Statement .figsApostrophe := fun _ => setWidth_lt _
theorem FormatFits.figs8 : Statement .figs8 := fun _ => setWidth_lt _
theorem FormatFits.figs7 : Statement .figs7 := fun _ => setWidth_lt _
theorem FormatFits.figsCr : Statement .figsCr := fun _ => setWidth_lt _
theorem FormatFits.figsEnq : Statement .figsEnq := fun _ => setWidth_lt _
theorem FormatFits.figs4 : Statement .figs4 := fun _ => setWidth_lt _
theorem FormatFits.figsBel : Statement .figsBel := fun _ => setWidth_lt _
theorem FormatFits.figsComma : Statement .figsComma := fun _ => setWidth_lt _
theorem FormatFits.figsColon : Statement .figsColon := fun _ => setWidth_lt _
theorem FormatFits.figsLParen : Statement .figsLParen := fun _ => setWidth_lt _
theorem FormatFits.figs5 : Statement .figs5 := fun _ => setWidth_lt _
theorem FormatFits.figsPlus : Statement .figsPlus := fun _ => setWidth_lt _
theorem FormatFits.figsRParen : Statement .figsRParen := fun _ => setWidth_lt _
theorem FormatFits.figs2 : Statement .figs2 := fun _ => setWidth_lt _
theorem FormatFits.figs6 : Statement .figs6 := fun _ => setWidth_lt _
theorem FormatFits.figs0 : Statement .figs0 := fun _ => setWidth_lt _
theorem FormatFits.figs1 : Statement .figs1 := fun _ => setWidth_lt _
theorem FormatFits.figs9 : Statement .figs9 := fun _ => setWidth_lt _
theorem FormatFits.figsQuestion : Statement .figsQuestion := fun _ => setWidth_lt _
theorem FormatFits.figsPeriod : Statement .figsPeriod := fun _ => setWidth_lt _
theorem FormatFits.figsSlash : Statement .figsSlash := fun _ => setWidth_lt _
theorem FormatFits.figsEquals : Statement .figsEquals := fun _ => setWidth_lt _
theorem FormatFits.codeLtrs : Statement .codeLtrs := fun _ => setWidth_lt _
theorem FormatFits.codeFigs : Statement .codeFigs := fun _ => setWidth_lt _

end Sys2Proof.Laws
end

