-- ==== Sys2Proof/Tests/Slice0.lean ====
section
/-! SUPPORT. The author's tests: ill-formed terms refused, every row's decoding by a word written out from its encoding,
worked examples of spec/95_test_vectors.md (the vector is named in each comment), and one witness for the hypotheses of each
statement. -/

namespace Sys2Proof.Tests

open Sys2Proof Sys2Proof.Machine

/-! Ill-formed terms. -/

/-- SYM of a code that has a row of its own is refused. -/
theorem test_wf_sym_fixed :
    (∀ k ∈ [(0x08 : BitVec 5), 0x02, 0x1F, 0x1B], (Instr.sym k).wellFormed Config.std = false)
      ∧ (Instr.sym 0x14).wellFormed Config.std = true := by decide

/-- STATUS with ARB = 3 is refused. -/
theorem test_wf_status_arb :
    (Instr.status false false false true false 3).wellFormed Config.std = false
      ∧ (Instr.status false false false true false 2).wellFormed Config.std = true := by decide

/-- A row whose character the Figures table lacks is refused: ENQ in the US-TTY table (93_implementation_defined.md G2). -/
theorem test_wf_row_unassigned :
    Instr.figsEnq.wellFormed Config.usTty = false ∧ Instr.figsEnq.wellFormed Config.std = true := by decide

/-! Decoding, one word written out for every constructor. -/

/-- CMD32 (30_encoding.md R91, R93; vectors H). -/
theorem test_decode_cmd32 :
    ∀ p ∈ ([
      (0x0000FFFF, .nop), (0x10000000, .msgclr), (0x20000048, .msgput 0x48), (0x2000AB49, .msgput 0x49),
      (0x30000000, .send), (0x40000000, .play), (0x500003E8, .sethi 1000), (0x60000492, .setlo 1170),
      (0x70001388, .setbaud 5000), (0x80000000, .rsttone), (0x90000000, .gethi), (0xA0000000, .getlo),
      (0xB0000000, .getbaud), (0xC0000000, .reservedC), (0xD0000001, .reservedD), (0xE000FFFF, .reservedE),
      (0xFFFFFFFF, .reservedF)] : List (BitVec 32 × Instr)),
      decode Config.std .cmd32 p.1 = .ok p.2 := by decide

/-- RSP32, STATUS8, DAC16, MEM32, MEMBYTE (vectors H, G, E; R99, R100). -/
theorem test_decode_ports :
    decode Config.std .rsp32 0x0000084D = .ok (.rsp 2125)
      ∧ decode Config.std .rsp32 0x0001084D = .error .rspUpperHalf
      ∧ decode Config.std .status8 0x42 = .ok (.status true false false false false 2)
      ∧ decode Config.std .status8 0x0D = .ok (.status false false false true true 1)
      ∧ decode Config.std .status8 0x03 = .error .statusArb ∧ decode Config.std .status8 0x88 = .error .statusTopBit
      ∧ decode Config.std .dac16 0x3960 = .ok (.dacframe 150) ∧ decode Config.std .dac16 0x4960 = .error .dacConfig
      ∧ decode Config.std .dac16 0x3961 = .error .dacPadding ∧ decode Config.std .dac16 0x13960 = .error .tooWide
      ∧ decode Config.std .mem32 0x03000000 = .ok .memcmd ∧ decode Config.std .mem32 0x03000001 = .error .memHeader
      ∧ decode Config.std .memByte 0x7F = .ok (.membyte 0x7F) := by decide

/-- SYM8 in transmission order (vectors B: FRAME of 14, 01, 08, 02, 1F, 1B). -/
theorem test_decode_sym8 :
    ∀ p ∈ ([
      (0b00010111, .sym 0x14), (0b01000011, .sym 0x01), (0b00001011, .symCr), (0b00100011, .symLf),
      (0b01111111, .symLtrs), (0b01101111, .symFigs)] : List (BitVec 32 × Instr)),
      decode Config.std .sym8 p.1 = .ok p.2 := by decide

/-- A symbol with a wrong start or stop bit is no symbol (R95). -/
theorem test_decode_sym8_framing :
    decode Config.std .sym8 0b10010111 = .error .symStart ∧ decode Config.std .sym8 0b00010101 = .error .symStop
      ∧ decode Config.std .sym8 0b00010110 = .error .symStop := by decide

/-- The Letters rows and the shift codes (40_baudot_codec.md R121, R124). -/
theorem test_decode_letters :
    ∀ p ∈ ([
      (0x01, .ltrsE), (0x02, .ltrsLf), (0x03, .ltrsA), (0x04, .ltrsSp), (0x05, .ltrsS), (0x06, .ltrsI),
      (0x07, .ltrsU), (0x08, .ltrsCr), (0x09, .ltrsD), (0x0A, .ltrsR), (0x0B, .ltrsJ), (0x0C, .ltrsN),
      (0x0D, .ltrsF), (0x0E, .ltrsC), (0x0F, .ltrsK), (0x10, .ltrsT), (0x11, .ltrsZ), (0x12, .ltrsL),
      (0x13, .ltrsW), (0x14, .ltrsH), (0x15, .ltrsY), (0x16, .ltrsP), (0x17, .ltrsQ), (0x18, .ltrsO),
      (0x19, .ltrsB), (0x1A, .ltrsG), (0x1C, .ltrsM), (0x1D, .ltrsX), (0x1E, .ltrsV), (0x1F, .codeLtrs),
      (0x1B, .codeFigs)] : List (BitVec 32 × Instr)),
      decode Config.std (.b5 .letters) p.1 = .ok p.2 := by decide

/-- The Figures rows and the shift codes (R122, R124). -/
theorem test_decode_figures :
    ∀ p ∈ ([
      (0x01, .figs3), (0x02, .figsLf), (0x03, .figsMinus), (0x04, .figsSp), (0x05, .figsApostrophe),
      (0x06, .figs8), (0x07, .figs7), (0x08, .figsCr), (0x09, .figsEnq), (0x0A, .figs4), (0x0B, .figsBel),
      (0x0C, .figsComma), (0x0E, .figsColon), (0x0F, .figsLParen), (0x10, .figs5), (0x11, .figsPlus),
      (0x12, .figsRParen), (0x13, .figs2), (0x15, .figs6), (0x16, .figs0), (0x17, .figs1), (0x18, .figs9),
      (0x19, .figsQuestion), (0x1C, .figsPeriod), (0x1D, .figsSlash), (0x1E, .figsEquals), (0x1F, .codeLtrs),
      (0x1B, .codeFigs)] : List (BitVec 32 × Instr)),
      decode Config.std (.b5 .figures) p.1 = .ok p.2 := by decide

/-- Codes without a character (R121, R122, R124). -/
theorem test_decode_unassigned :
    decode Config.std (.b5 .letters) 0x00 = .error .codeUnassigned
      ∧ decode Config.std (.b5 .letters) 0x20 = .error .tooWide
      ∧ decode Config.std (.b5 .figures) 0x0D = .error .codeUnassigned
      ∧ decode Config.std (.b5 .figures) 0x1A = .error .codeUnassigned := by decide

/-- The US-TTY table (93_implementation_defined.md G2): BEL moves to 0x05; `$` at 0x09 has no row in the opcode table. -/
theorem test_decode_usTty :
    decode Config.usTty (.b5 .figures) 0x05 = .ok .figsBel
      ∧ decode Config.usTty (.b5 .figures) 0x09 = .error .codeNoRow := by decide +kernel

/-- Table words through the host's door. -/
theorem test_table_words :
    decodeTableWord 32 0x30000000 = some .send ∧ decodeTableWord 32 0x03000000 = some .memcmd
      ∧ decodeTableWord 8 0x1E = some .ltrsV ∧ decodeTableWord 8 0x6F = some .symFigs
      ∧ decodeTableWord 16 0x3FF0 = some (.dacframe 0xFF) ∧ decodeTableWord 8 0x80 = some (.membyte 0x80)
      ∧ decodeTableWord 8 0x32 = some (.status false true true false false 2) ∧ decodeTableWord 8 0x100 = none := by
  decide

/-! One step on small states. -/

/-- A field of the state after one outcome. -/
def after {α : Type} (o : Host.Outcome State Fault Refusal) (f : State → α) : Option α :=
  match o with
  | .next t => some (f t)
  | .fault _ => none
  | .refused _ => none

/-- Reset with some characters in the message buffer. -/
def holding (text : List Byte) : State :=
  { State.reset with msg := (List.range text.length).zip text, msgLen := BitVec.ofNat 9 text.length }

/-- Vector B2: the plan of "HI". -/
theorem test_send_hi :
    after (exec .send (holding [0x48, 0x49])) State.planBits = some
      ([false, false, false, false, true, false, true, true] ++ [false, false, true, false, false, false, true, true]
        ++ [false, true, true, true, true, true, true, true] ++ [false, false, false, true, false, true, true, true]
        ++ [false, false, true, true, false, false, true, true]) := by decide

/-- Vector B6, "~A": FIGS, then LTRS at once; SHIFT ends in Letters. Program P1: the snapshot of the default tone. -/
theorem test_send_unencodable :
    after (exec .send (holding [0x7E, 0x41])) (fun t => (t.planLen, t.shift, t.planBits.drop 16)) = some
      (40, Shift.letters, [false, true, true, false, true, true, true, true]
        ++ [false, true, true, true, true, true, true, true] ++ [false, true, true, false, false, false, true, true])
    ∧ after (exec .send (holding [0x48, 0x49])) (fun t => (t.incHigh, t.incLow, t.holdTicks, t.inc, t.holdCnt, t.status))
      = some (0x06CCCCCD, 0x07581062, 1760, 0x07581062, 1760, 0x09) := by decide

/-- Vectors C: increments and holds. -/
theorem test_phaseInc_holdTicks :
    phaseInc Config.std 1 = 53687 ∧ phaseInc Config.std 2124 = 0x06CBFB16 ∧ phaseInc Config.std 39999 = 0x7FFF2E49
      ∧ phaseInc Config.std 65535 = 0xD1B645A2 ∧ holdTicksOf Config.std 7500 = 1067
      ∧ holdTicksOf Config.std 30000 = 267 ∧ holdTicksOf Config.std 65535 = 122 := by decide

/-- Vectors D: a tick whose sum wraps, and one of the largest useful increment. -/
theorem test_dds_tick :
    (ddsTick { State.reset with acc := 0xFC8F53CD, inc := 0x06CCCCCD }).trace = [.dac 0x3890]
      ∧ (ddsTick { State.reset with acc := 0x7FFFFFFF, inc := 0x80000000 }).trace = [.dac 0x37D0]
      ∧ (ddsTick { State.reset with acc := 0x7FFFFFFF, inc := 0x80000000 }).acc = 0xFFFFFFFF := by
  decide

/-- Reset with a message length and cells behind it. -/
def lengthOf (n : BitVec 9) : State := { State.reset with msgLen := n, msg := [(3, 0x41)] }

/-- Vectors H: MSGPUT at the ends of the buffer. -/
theorem test_msgput :
    after (exec (.msgput 0x48) (lengthOf 0)) (fun t => (t.msgLen, t.msg)) = some (1, [(0, 0x48), (3, 0x41)])
      ∧ after (exec (.msgput 0x41) (lengthOf 256)) (fun t => (t.msgLen, t.msg)) = some (256, [(3, 0x41)]) := by
  decide

/-- Vectors H: MSGCLR, SETBAUD 0, RSTTONE, GETLO. -/
theorem test_host_commands :
    after (exec .msgclr (lengthOf 5)) State.msgLen = some 0
      ∧ after (exec (.setbaud 0) State.reset) State.baudC = some 4545
      ∧ after (exec .rsttone { State.reset with highHz := 1000, lowHz := 1170, baudC := 5000 })
          (fun t => (t.highHz, t.lowHz, t.baudC)) = some (2125, 2295, 4545)
      ∧ after (exec .getlo State.reset) State.trace = some [.rsp 0x000008F7] := by decide

/-- Vectors G: STATUS after PLAY accept, after PB_TERMINATE, after PLAY_COMPLETE. -/
theorem test_status_playback :
    after (exec .play State.reset) State.status = some 0x32
      ∧ State.status { State.reset with arb := .playbackActive, ddsEn := false, pbDone := true } = 0x42
      ∧ State.status { State.reset with pbDone := true } = 0x48 := by decide

/-- A playback in progress. -/
def playing (cur : Byte) (n : Nat) : State :=
  { State.reset with arb := .playbackActive, ddsEn := false, savedDdsEn := true, pbEn := true, pbActive := true,
                     memCs := true, curSample := cur, sentCnt := n }

/-- Vectors F: a broken run, and the 250th sentinel. -/
theorem test_membyte :
    after (exec (.membyte 0xFE) (playing 0xFF 17)) (fun t => (t.curSample, t.sentCnt, t.trace, t.pbEn))
        = some (0xFE, 0, [.memRd 0xFE, .dac 0x3FF0], true)
      ∧ after (exec (.membyte 0xFF) (playing 0xFF 249)) (fun t => (t.curSample, t.sentCnt, t.trace, t.pbEn))
        = some (0x00, 0, [.memDesel, .memRd 0xFF, .dac 0x3FF0], false) := by decide

/-- R6, R7: SENT_THRESH = 1, and EMPTY_SHIFT = FIGURES for an empty message (R142; 93_implementation_defined.md G1). -/
theorem test_other_parameters :
    after (exec (.membyte 0xFF) { playing 0 0 with cfg := { Config.std with sentThresh := 1 } })
        (fun t => (t.sentCnt, t.pbDone)) = some (0, true)
      ∧ after (exec .send (State.resetWith { Config.std with emptyShift := .figures }))
        (fun t => (t.shift, t.planBits.drop 16)) = some (Shift.figures, [false, true, true, false, true, true, true, true]) := by
  decide

/-- A bench whose framer has a plan of `n` bits in the table of `t`. -/
def planned (t : Shift) (n : BitVec 13) : State := { State.reset with bench := ⟨⟨[], n, t⟩, [], 0⟩ }

/-- R123 on a table row: space costs no shift in Figures; A does. -/
theorem test_code_rows :
    after (exec .ltrsSp (planned .figures 0)) (fun t => (t.bench.framer.planLen, t.bench.framer.shift)) = some (8, .figures)
      ∧ after (exec .ltrsA (planned .figures 0)) (fun t => (t.bench.framer.planLen, t.bench.framer.shift))
        = some (16, .letters) := by decide

/-- Placed words run as the first instruction after reset. -/
theorem test_fetch_word :
    after (step (State.reset.withFetchWord 32 0x20000048)) State.msg = some [(0, 0x48)]
      ∧ after (step (State.reset.withFetchWord 8 0x80)) State.curSample = some 0x80
      ∧ after (step (State.reset.withFetchWord 16 0x3960)) (fun t => t.bench.events) = some [.dac 0x3960] := by decide

/-- R282: `rst` after 24 of the 50 line changes of an idle tick's frame 0x3800: no `Dac`, and the lines low at the 8th bit. -/
theorem test_cut :
    after (step { State.reset with stimuli := [.cut 24] }) (fun t => (t.trace, t.cutWave.length, t.cutWave.getLast?))
      = some ([], 24, some (.dac ⟨false, true, false⟩)) := by decide

/-! Witnesses: states and operands that meet the hypotheses of a statement. -/

/-- Reset with a list of stimuli. -/
def facing (r : List Stimulus) : State := { State.reset with stimuli := r }

theorem reset_inv : StateInv State.reset := by constructor <;> decide

theorem facing_inv (r : List Stimulus) : StateInv (facing r) := { reset_inv with }

theorem witness_RstAbandonsAnythingInProgress :
    (facing [.rst]).stimuli = .rst :: [] ∧ (facing [.rst]).memCs = false
      ∧ ({ playing 1 2 with stimuli := [.rst] } : State).stimuli = .rst :: []
      ∧ ({ playing 1 2 with stimuli := [.rst] } : State).memCs = true := by decide

/-- An idle tick cut at the first and last places within its frame and behind it, and a playback tick cut at the first and
last places within its byte. -/
theorem witness_RstCutsTheTransactionUnderWay :
    (∀ n ∈ [0, 49, 50],
        let s := facing [.cut n]
        s.stimuli = [.cut n] ∧ s.ddsEn = true ∧ s.pbEn = false ∧ ¬ (s.arb = .rttyActive ∧ s.holdCnt = 0)
          ∧ ¬ (s.arb = .playbackActive ∧ s.pbDone = true) ∧ s.memCs = false)
      ∧ ∀ n ∈ [51, 65],
        let s : State := { playing 1 2 with stimuli := [.cut n] }
        s.stimuli = [.cut n] ∧ s.arb = .playbackActive ∧ s.ddsEn = false ∧ s.pbEn = true ∧ s.pbDone = false
          ∧ s.memCs = true ∧ 50 < n ∧ n < 66 := by decide

theorem witness_StepRunsTheUnitOnThePort :
    let s := facing [.unit .cmd32 0x2000AB49]
    s.stimuli = .unit .cmd32 0x2000AB49 :: [] ∧ ¬ (s.ddsEn = true ∧ s.pbEn = true) ∧ ready .cmd32 s = true
      ∧ decode Config.std .cmd32 0x2000AB49 = .ok (.msgput 0x49) := by decide

theorem witness_StepRunsTheStreamedByte :
    let s := playing 0 0
    s.stimuli = [] ∧ s.pbEn = true ∧ s.ddsEn = false ∧ s.arb = .playbackActive ∧ s.pbDone = false := by decide

/-- The three clauses: a command, a streamed byte, and a unit of each other width. -/
theorem witness_PlacedWordsRunNext :
    decodeTableWordOf State.reset.cfg 32 0x30000000 = some .send ∧ Instr.send.format = .cmd32
      ∧ decodeTableWordOf State.reset.cfg 8 0x80 = some (.membyte 0x80)
      ∧ ∀ p ∈ [(32, 0x03000000, Instr.memcmd), (16, 0x3960, .dacframe 150), (8, 0x1E, .ltrsV)],
        decodeTableWordOf State.reset.cfg p.1 p.2.1 = some p.2.2 ∧ p.2.2.format ≠ .cmd32 ∧ p.2.2.format ≠ .memByte := by
  decide

/-- A transmission of one symbol, at a plan position. -/
def sending (pos : BitVec 13) : State :=
  { State.reset with arb := .rttyActive, planLen := 8, planPos := pos, plan := [(7, true)], incHigh := 5, inc := 5,
                     holdTicks := 122 }

/-- A command in a busy block, a streamed byte with no playback; nothing and a quiet entry at the head. -/
theorem witness_WaitingUnitsStayOnThePort :
    (let s : State := { sending 7 with stimuli := [.unit .cmd32 0x30000000] }
     s.stimuli = .unit .cmd32 0x30000000 :: [] ∧ ready .cmd32 s = false ∧ ¬ (s.ddsEn = true ∧ s.pbEn = true))
    ∧ (let s := facing [.unit .memByte 0x80]
       s.stimuli = .unit .memByte 0x80 :: [] ∧ ready .memByte s = false ∧ ¬ (s.ddsEn = true ∧ s.pbEn = true))
    ∧ State.reset.stimuli = [] ∧ (facing [.quiet]).stimuli = .quiet :: [] := by decide

theorem witness_RunsUseTheSuppliedParametersAndMemory :
    (∃ t, stepOn (fun _ => 0) (playing 1 2) = .next t) ∧ (fun _ => (0 : Byte)) (playing 1 2).xpos = (0 : Byte) :=
  ⟨⟨_, rfl⟩, rfl⟩

theorem witness_DecodeOfEncodeIsTheUnit :
    tablesLawful Config.usTty = true ∧ (Instr.status true true true true true 2).wellFormed Config.usTty = true
      ∧ (Instr.sym 0x00).wellFormed Config.usTty = true ∧ Instr.figsBel.wellFormed Config.usTty = true := by decide

theorem witness_DecodedUnitsEncodeBack :
    tablesLawful Config.std = true ∧ decode Config.std .sym8 0b01000011 = .ok (.sym 0x01) ∧ Format.sym8 ≠ .cmd32
      ∧ decode Config.std .cmd32 0x2FFF0041 = .ok (.msgput 0x41) := by decide

theorem witness_BusyBlockTakesNoCommand : (sending 7).arb ≠ .idle ∧ Instr.send.format = .cmd32 := by decide

/-- Idle: MSGCLR, the tone commands, the GET commands, PLAY. -/
theorem witness_idle_commands : State.reset.arb = .idle ∧ (0 : BitVec 16) = 0 ∧ (65535 : BitVec 16) ≠ 0 := by decide

theorem witness_MsgputAppendsOneCharacter :
    (lengthOf 256).arb = .idle ∧ (lengthOf 256).cfg.msgMax ≤ (lengthOf 256).msgLen.toNat
      ∧ (lengthOf 255).arb = .idle ∧ (lengthOf 255).msgLen.toNat < (lengthOf 255).cfg.msgMax
      ∧ paramsLawful (lengthOf 255).cfg = true := by decide

theorem witness_LoadedMessageIsTheText :
    State.reset.arb = .idle ∧ paramsLawful State.reset.cfg = true
      ∧ (List.replicate 256 (0x41 : Byte)).length ≤ State.reset.cfg.msgMax :=
  ⟨rfl, by decide, Nat.le_of_eq List.length_replicate⟩

/-- SEND: an empty and a full message. -/
theorem witness_SendStartsATransmission :
    ∀ n ∈ [(0 : BitVec 9), 256], (lengthOf n).arb = .idle ∧ paramsLawful (lengthOf n).cfg = true
      ∧ (lengthOf n).msgLen.toNat ≤ (lengthOf n).cfg.msgMax := by decide

theorem witness_OfferedTextIsTransmitted :
    ∃ (text : List Byte) (s : State), StateInv s ∧ s.arb = .idle ∧ text.length = s.cfg.msgMax
      ∧ s.stimuli = offers s.cfg (sendText text) :=
  ⟨List.replicate 256 0x41, facing (offers Config.std (sendText (List.replicate 256 0x41))), facing_inv _, rfl,
    List.length_replicate, rfl⟩

/-- The four clauses at the values where they meet. -/
theorem witness_StreamedByteIsOnePlaybackTick :
    paramsLawful State.reset.cfg = true ∧ State.reset.pbEn = false ∧ (playing 0 249).pbEn = true ∧ (0xFE : BitVec 8) ≠ 0xFF
      ∧ (playing 0 248).sentCnt + 1 < (playing 0 248).cfg.sentThresh
      ∧ (playing 0 249).cfg.sentThresh ≤ (playing 0 249).sentCnt + 1 := by decide

/-- The two clauses where they meet. -/
theorem witness_SymbolRowsAppendTheirFrame :
    paramsLawful Config.std = true ∧ (planned .letters 4112).cfg = Config.std ∧ Config.std.planMax = 4120
      ∧ (planned .letters 4112).bench.framer.planLen.toNat + 8 ≤ 4120
      ∧ 4120 < (planned .letters 4113).bench.framer.planLen.toNat + 8 := by decide

theorem witness_CodeRowsInTheActiveTable :
    Instr.figs3.wellFormed Config.std = true ∧ Instr.figs3.format = .b5 .figures ∧ Instr.figs3 ≠ .codeLtrs
      ∧ Instr.figs3 ≠ .codeFigs ∧ (planned .figures 4112).bench.framer.shift = .figures
      ∧ (planned .figures 4112).bench.framer.planLen.toNat + 8 ≤ Config.std.planMax := by decide

/-- A shared character with room for one symbol and another one with room for two, the other table active. -/
theorem witness_CodeRowsInTheOtherTable :
    (∀ i ∈ [Instr.ltrsSp, Instr.ltrsCr, Instr.ltrsLf, Instr.ltrsA],
        i.wellFormed Config.std = true ∧ i.format = .b5 .letters ∧ i ≠ .codeLtrs ∧ i ≠ .codeFigs)
      ∧ (planned .figures 4112).bench.framer.shift = Shift.letters.other ∧ Instr.ltrsSp ∈ sharedRows
      ∧ (planned .figures 4112).bench.framer.planLen.toNat + 8 ≤ Config.std.planMax ∧ Instr.ltrsA ∉ sharedRows
      ∧ (planned .figures 4104).bench.framer.planLen.toNat + 16 ≤ Config.std.planMax := by decide

/-- The clauses where they meet. -/
theorem witness_CodeRowsPastTheEndOfThePlan :
    Instr.ltrsA.wellFormed Config.std = true ∧ Instr.ltrsA.format = .b5 .letters ∧ Instr.ltrsA ≠ .codeLtrs
      ∧ Instr.ltrsA ≠ .codeFigs ∧ Instr.ltrsA ∉ sharedRows
      ∧ Config.std.planMax < (planned .letters 4113).bench.framer.planLen.toNat + 8
      ∧ (planned .figures 4112).bench.framer.planLen.toNat + 8 ≤ Config.std.planMax
      ∧ Config.std.planMax < (planned .figures 4112).bench.framer.planLen.toNat + 16
      ∧ (planned .figures 4112).bench.framer.shift = Shift.letters.other := by decide

theorem witness_ShiftCodeRowsSwitchTheTable :
    paramsLawful (planned .letters 4112).cfg = true
      ∧ (planned .letters 4112).bench.framer.planLen.toNat + 8 ≤ (planned .letters 4112).cfg.planMax := by decide

/-- The tables of LookupInvertsTheTable, PlansBeginWithThePreamble, PlanLengthCountsCharactersAndShifts,
ReceiverRecoversTheMessage; a text that is not empty. -/
theorem witness_lawful_tables :
    tablesLawful Config.std = true ∧ tablesLawful Config.usTty = true ∧ [(0x41 : Byte)] ≠ [] := by decide

/-- Vectors B9 "RYRY" and B8 "123". -/
theorem witness_OneTableMessagesNeedOneShift :
    (∀ c ∈ [(0x52 : Byte), 0x59, 0x52, 0x59], (lookup Config.std c .letters).isSome = true)
      ∧ (∀ c ∈ [(0x31 : Byte), 0x32, 0x33], (lookup Config.std c .figures).isSome = true)
      ∧ lookup Config.std 0x31 .letters = none := by decide

/-- Vector B5, "A1". -/
theorem witness_TextNeverShiftsTwiceInARow :
    (textCodes Config.std .letters [0x41, 0x31]).1 = [] ++ 0x03 :: 0x1B :: [0x17] := by decide

theorem witness_DdsTickAdvancesThePhase :
    let s := { sending 7 with holdCnt := 1 }
    s.ddsEn = true ∧ s.pbEn = false ∧ ¬ (s.arb = .rttyActive ∧ s.holdCnt = 0)
      ∧ ¬ (s.arb = .playbackActive ∧ s.pbDone = true) := by decide

theorem witness_IdleTicksChangeNoRegister :
    State.reset.arb = .idle ∧ State.reset.inc = 0 ∧ State.reset.ddsEn = true ∧ State.reset.pbEn = false
      ∧ State.reset.stimuli = [] := by decide

/-- The last bit and the one before it. -/
theorem witness_BitAdvanceKeysTheNextBit :
    (∀ p ∈ [(6 : BitVec 13), 7], (sending p).arb = .rttyActive ∧ (sending p).holdCnt = 0
        ∧ ¬ ((sending p).ddsEn = true ∧ (sending p).pbEn = true))
      ∧ (sending 7).planPos + 1 = (sending 7).planLen ∧ (sending 6).planPos + 1 ≠ (sending 6).planLen := by decide

/-- The least and the greatest baud rate; the greatest frequency. -/
theorem witness_HoldIsNearestToTheBitInterval :
    paramsLawful Config.std = true ∧ (1 : BitVec 16) ≠ 0 ∧ (65535 : BitVec 16) ≠ 0
      ∧ (65535 : BitVec 16).toNat < Config.std.fDds := by decide

theorem witness_TransmissionKeysEveryBitAndEnds :
    StateInv State.reset ∧ State.reset.arb = .idle ∧ State.reset.stimuli = [] ∧ ∃ t, exec .send State.reset = .next t :=
  ⟨reset_inv, rfl, rfl, _, rfl⟩

theorem sending_inv : StateInv (sending 7) := by constructor <;> decide

/-- The two disjuncts, a transmission, and the playback's statement. -/
theorem witness_PlanShiftAndSnapshotAreSendsAlone :
    (sending 7).arb = .rttyActive ∧ (sending 7).stimuli.head? = none ∧ (∃ t, step (sending 7) = .next t)
      ∧ (facing [.unit .cmd32 0x30000000]).stimuli = [.unit .cmd32 0x30000000]
      ∧ ∃ t, step (facing [.unit .cmd32 0x30000000]) = .next t :=
  ⟨rfl, rfl, ⟨_, rfl⟩, rfl, _, rfl⟩

theorem playing_inv : StateInv (playing 0 249) := by constructor <;> decide

/-- The tick, and a bench's frame in the middle of a playback. -/
theorem witness_OnlyTheTickTouchesThePlayback :
    StateInv (playing 0 249) ∧ (playing 0 249).pbActive = true ∧ (playing 0 249).stimuli.head? = none
      ∧ (∃ t, step (playing 0 249) = .next t)
      ∧ ∃ t, step { playing 0 249 with stimuli := [.unit .dac16 0x3960] } = .next t :=
  ⟨playing_inv, rfl, rfl, ⟨_, rfl⟩, _, rfl⟩

theorem witness_PlayCompleteRestoresTheSource :
    let s := { playing 0 0 with pbEn := false, pbDone := true }
    s.arb = .playbackActive ∧ s.pbDone = true ∧ ¬ (s.ddsEn = true ∧ s.pbEn = true) := by decide

/-- A stream of 250 sentinels (vectors F, first playback: e = 249). -/
def sentinels : State := { State.reset with xmem := (List.range 250).map (fun i => (i, 0xFF)) }

theorem sentinels_read : ∀ i < 250, sentinels.xmemByte i = 0xFF := by decide +kernel

theorem sentinels_run (n : Nat) (h : n ≤ 250) : sentinelRun Config.std sentinels.xmemByte n = n := by
  induction n with
  | zero => rfl
  | succ n ih =>
    have e : sentinels.xmemByte n = Config.std.sentinel := sentinels_read n h
    rw [sentinelRun, if_pos e, ih (Nat.le_of_succ_le h)]

theorem witness_PlaybackEndsAtTheSentinelRun :
    StateInv sentinels ∧ sentinels.arb = .idle ∧ sentinels.stimuli = []
      ∧ runEndsAt Config.std sentinels.xmemByte 249 ∧ ∃ t, exec .play sentinels = .next t :=
  ⟨{ reset_inv with }, rfl, rfl,
    ⟨sentinels_run 250 (Nat.le_refl 250), fun i hi => by
      rw [sentinels_run i (Nat.le_trans hi (by decide))]
      exact Nat.lt_succ_of_le hi⟩, _, rfl⟩

theorem witness_PlaybackGoesOnUntilARun :
    StateInv sentinels ∧ sentinels.arb = .idle ∧ sentinels.stimuli = []
      ∧ (∀ i, i ≤ 249 → sentinelRun Config.std sentinels.xmemByte i < Config.std.sentThresh)
      ∧ ∃ t, exec .play sentinels = .next t :=
  ⟨witness_PlaybackEndsAtTheSentinelRun.1, rfl, rfl, witness_PlaybackEndsAtTheSentinelRun.2.2.2.1.2, _, rfl⟩

theorem witness_EveryStepKeepsTheInvariants : StateInv State.reset ∧ ∃ t, step State.reset = .next t :=
  ⟨reset_inv, _, rfl⟩

/-- Both clauses: an idle tick, and a bench unit that is no symbol. -/
theorem witness_InvariantStatesNeverFault :
    StateInv State.reset ∧ StateInv (facing [.unit .sym8 0x80])
      ∧ step (facing [.unit .sym8 0x80]) = .refused (.undecodable .symStart) :=
  ⟨reset_inv, facing_inv _, rfl⟩

/-- Accepting SEND, the end of a plan, accepting PLAY, `rst`, a cut. -/
theorem witness_ArbiterMovesOnlyByItsTable :
    ∀ s ∈ [facing [.unit .cmd32 0x30000000], sending 7, facing [.unit .cmd32 0x40000000], facing [.rst],
        facing [.cut 9]],
      StateInv s ∧ ∃ t, step s = .next t := by
  intro s hs
  simp only [List.mem_cons, List.not_mem_nil, or_false] at hs
  rcases hs with rfl | rfl | rfl | rfl | rfl
  · exact ⟨facing_inv _, _, rfl⟩
  · exact ⟨sending_inv, _, rfl⟩
  · exact ⟨facing_inv _, _, rfl⟩
  · exact ⟨facing_inv _, _, rfl⟩
  · exact ⟨facing_inv _, _, rfl⟩

theorem witness_InstructionsKeepToTheirWriters : ∃ t, exec (.membyte 0xFF) (playing 0 249) = .next t := ⟨_, rfl⟩

end Sys2Proof.Tests
end

section
/-! PROOFS. The state after reset (spec/10_state.md R45): what each group of registers holds, for any parameters. -/

namespace Sys2Proof.Proofs
open Sys2Proof.Machine

/-- The tone registers are the only ones whose reset value is a parameter (R21, R22, R23). -/
@[simp] theorem resetWith_toneRegisters (cfg : Config) :
    (State.resetWith cfg).highHz = cfg.defHighHz ∧ (State.resetWith cfg).lowHz = cfg.defLowHz
      ∧ (State.resetWith cfg).baudC = cfg.defBaudC :=
  ⟨rfl, rfl, rfl⟩

/-- The message and the plan are empty, in the Letters table (R24 to R28). -/
@[simp] theorem resetWith_messageAndPlan (cfg : Config) :
    (State.resetWith cfg).msgLen = 0 ∧ (State.resetWith cfg).shift = .letters ∧ (State.resetWith cfg).planLen = 0
      ∧ (State.resetWith cfg).planPos = 0 ∧ (State.resetWith cfg).holdCnt = 0 :=
  ⟨rfl, rfl, rfl, rfl, rfl⟩

/-- The synthesizer's snapshots, accumulator and increment are 0 (R29 to R31). -/
@[simp] theorem resetWith_synthesizer (cfg : Config) :
    (State.resetWith cfg).incHigh = 0 ∧ (State.resetWith cfg).incLow = 0 ∧ (State.resetWith cfg).holdTicks = 0
      ∧ (State.resetWith cfg).acc = 0 ∧ (State.resetWith cfg).inc = 0 :=
  ⟨rfl, rfl, rfl, rfl, rfl⟩

/-- The playback cursor is clear (R32 to R35). -/
@[simp] theorem resetWith_playbackCursor (cfg : Config) :
    (State.resetWith cfg).curSample = 0 ∧ (State.resetWith cfg).sentCnt = 0
      ∧ (State.resetWith cfg).pbActive = false ∧ (State.resetWith cfg).pbDone = false :=
  ⟨rfl, rfl, rfl, rfl⟩

/-- The arbiter is Idle, the RTTY source alone is enabled, and the memory is deselected (R36 to R40). -/
@[simp] theorem resetWith_arbiterControl (cfg : Config) :
    (State.resetWith cfg).arb = .idle ∧ (State.resetWith cfg).ddsEn = true ∧ (State.resetWith cfg).pbEn = false
      ∧ (State.resetWith cfg).savedDdsEn = false ∧ (State.resetWith cfg).memCs = false :=
  ⟨rfl, rfl, rfl, rfl, rfl⟩

/-- The default tones and baud rate of R6. -/
theorem std_toneDefaults :
    Config.std.defHighHz = 2125 ∧ Config.std.defLowHz = 2295 ∧ Config.std.defBaudC = 4545 :=
  ⟨rfl, rfl, rfl⟩

/-- Settles O1: the tone registers hold the default parameters, and every other group its value for any parameters. -/
theorem resetGivesEveryRegisterItsValue : Obligations.ResetGivesEveryRegisterItsValue := by
  unfold Obligations.ResetGivesEveryRegisterItsValue State.reset
  obtain ⟨hhigh, hlow, hbaud⟩ := std_toneDefaults
  simp [hhigh, hlow, hbaud]

end Sys2Proof.Proofs
end

section
/-! PROOFS. The plan of a message (spec/41_bitstream_framer.md R141 to R148): it fits its buffer, BUILDPLAN writes exactly its
bits, and SEND puts BUILDPLAN's result in the block. -/

namespace Sys2Proof.Proofs
open Sys2Proof.Machine

/-! The worst case of R148, which PLAN_MAX is made for: two symbols a character, three before the text. -/

theorem charCodes_length_le (cfg : Config) (t : Shift) (c : Byte) : (charCodes cfg t c).1.length ≤ 2 := by
  unfold charCodes
  split <;> simp

theorem textCodes_length_le (cfg : Config) (t : Shift) (text : List Byte) :
    (textCodes cfg t text).1.length ≤ 2 * text.length := by
  induction text generalizing t with
  | nil => exact Nat.le_refl 0
  | cons c cs ih =>
    have hchar := charCodes_length_le cfg t c
    have htail := ih (charCodes cfg t c).2
    simp only [textCodes, List.length_append, List.length_cons]
    omega

theorem planCodes_length_le (cfg : Config) (text : List Byte) : (planCodes cfg text).length ≤ 3 + 2 * text.length := by
  have hcr := Option.length_toList_le (o := lookup cfg 0x0D .letters)
  have hlf := Option.length_toList_le (o := lookup cfg 0x0A .letters)
  have htext := textCodes_length_le cfg (initialShift cfg text) text
  simp only [planCodes, List.length_append, List.length_cons]
  omega

@[simp] theorem message_length (s : State) : s.message.length = s.msgLen.toNat := by
  simp [State.message]

/-- The plan of a message that fits MSG fits PLAN. -/
theorem planCodes_message_fits {s : State} (h : s.msgLen.toNat ≤ s.cfg.msgMax) :
    8 * (planCodes s.cfg s.message).length ≤ s.cfg.planMax := by
  have hlen := planCodes_length_le s.cfg s.message
  rw [message_length] at hlen
  unfold Config.planMax
  omega

/-! BUILDPLAN, when the plan fits. -/

@[simp] theorem buildPlan_shift (cfg : Config) (message : List Byte) (f : Framer) :
    (buildPlan cfg message f).shift = (textCodes cfg (initialShift cfg message) message).2 := by
  rw [buildPlan_spec]

/-- A plan that fits is written whole from PLAN[0] on, whatever plan stood there, and nothing is written past it. -/
theorem buildPlan_fits {cfg : Config} (hc : cfg.planMax < 8192) {message : List Byte} (f : Framer)
    (h : 8 * (planCodes cfg message).length ≤ cfg.planMax) :
    (buildPlan cfg message f).bits = framedBits (planCodes cfg message)
      ∧ (buildPlan cfg message f).planLen.toNat = 8 * (planCodes cfg message).length
      ∧ ∀ a, (buildPlan cfg message f).planLen.toNat ≤ a →
          Memory.read (buildPlan cfg message f).plan a = Memory.read f.plan a := by
  rw [buildPlan_spec]
  obtain ⟨hbits, hlen, hcells⟩ :=
    appendSyms_fits hc (planCodes cfg message) (f := { f with planLen := 0 }) (by simpa using h)
  exact ⟨hbits, hlen.trans (Nat.zero_add _), fun a ha => hcells a (Or.inr (hlen ▸ ha))⟩

/-! SEND (R223). -/

theorem exec_send_idle {s : State} (h : s.arb = .idle) : exec .send s = .next (sendAccept s) :=
  whenIdle_idle sendAccept h

@[simp] theorem sendAccept_framer (s : State) : (sendAccept s).framer = buildPlan s.cfg s.message s.framer := rfl

@[simp] theorem sendAccept_msg (s : State) : (sendAccept s).msg = s.msg := rfl

/-- Settles O24: SEND leaves BUILDPLAN's result as the plan, and the message's plan fits its buffer. -/
theorem sendBuildsThePlanOfTheMessage : Obligations.SendBuildsThePlanOfTheMessage := by
  unfold Obligations.SendBuildsThePlanOfTheMessage
  intro s hidle hlawful hmsg
  obtain ⟨-, -, -, hplanMax, -⟩ := paramsLawful_spec hlawful
  obtain ⟨hbits, hlen, hcells⟩ := buildPlan_fits hplanMax s.framer (planCodes_message_fits hmsg)
  have hshift := buildPlan_shift s.cfg s.message s.framer
  rw [← sendAccept_framer] at hbits hlen hcells hshift
  exact ⟨sendAccept s, exec_send_idle hidle, hbits, hlen, hshift, hcells, fun a => by rw [sendAccept_msg]⟩

end Sys2Proof.Proofs
end

section
/-! PROOFS. The synthesizer's own steps (spec/42_dds_synth.md R161, R166): when the block takes them, and the state each one
makes. -/

namespace Sys2Proof.Proofs
open Sys2Proof.Machine

theorem bothEnabled_eq_false_iff (s : State) : bothEnabled s = false ↔ ¬ (s.ddsEn = true ∧ s.pbEn = true) := by
  rw [bothEnabled, ← Bool.and_eq_true, Bool.not_eq_true]

/-! The order of the block's own steps: the bit boundary goes before everything else, the tick after the two ends. -/

theorem ownStep_eq_bitAdvance (mem : Nat → Byte) {s : State} (henabled : bothEnabled s = false)
    (hboundary : s.arb = .rttyActive ∧ s.holdCnt = 0) : ownStep mem s = .next (bitAdvance s) := by
  rw [ownStep, henabled, if_neg Bool.false_ne_true, if_pos hboundary]

theorem ownStep_eq_ddsTick (mem : Nat → Byte) {s : State} (henabled : bothEnabled s = false)
    (hboundary : ¬ (s.arb = .rttyActive ∧ s.holdCnt = 0)) (hplayed : ¬ (s.arb = .playbackActive ∧ s.pbDone = true))
    (hdds : s.ddsEn = true) : ownStep mem s = .next (ddsTick s) := by
  rw [ownStep, henabled, if_neg Bool.false_ne_true, if_neg hboundary, if_neg hplayed, if_pos hdds]

/-- The converter frame of an accumulator value: the sine entry at its top 8 bits between DAC_CFG and four zeros. -/
theorem dacFrame_sampleOf (cfg : Config) (acc : BitVec 32) :
    dacFrame cfg (sampleOf cfg acc) = cfg.dacCfg ++ sineAt cfg (acc.extractLsb' 24 8) ++ (0 : BitVec 4) := rfl

/-- Settles O41: with neither a bit boundary nor a playback's end before it the own step is the tick. -/
theorem ddsTickAdvancesThePhase : Obligations.DdsTickAdvancesThePhase := by
  unfold Obligations.DdsTickAdvancesThePhase
  intro mem s hdds hpb hboundary hplayed
  have henabled : bothEnabled s = false := (bothEnabled_eq_false_iff s).mpr (by simp [hpb])
  rw [ownStep_eq_ddsTick mem henabled hboundary hplayed hdds, ddsTick_spec, dacFrame_sampleOf]

/-- Settles O43: at a bit boundary the own step is BIT_ADVANCE, which compares the new PLAN_POS with PLAN_LEN. -/
theorem bitAdvanceKeysTheNextBit : Obligations.BitAdvanceKeysTheNextBit := by
  unfold Obligations.BitAdvanceKeysTheNextBit
  intro mem s harb hhold hsources
  have hstep : ownStep mem s = .next (bitAdvance s) :=
    ownStep_eq_bitAdvance mem ((bothEnabled_eq_false_iff s).mpr hsources) ⟨harb, hhold⟩
  constructor
  · intro hlast
    rw [hstep, bitAdvance_last hlast]
  · intro hnext
    rw [hstep, bitAdvance_next hnext, State.sel]

end Sys2Proof.Proofs
end

section
/-! PROOFS. The arbiter's playback transitions (spec/44_transport_arbiter.md R202, R204): the command word of PLAY,
PLAY_ACCEPT behind it, and PLAY_COMPLETE as the block's own step. -/

namespace Sys2Proof.Proofs
open Sys2Proof.Machine

/-! A command word (30_encoding.md R91): every word is one, and its opcode field alone is its top 4 bits. -/

theorem decode_cmd32 (cfg : Config) (w : BitVec 32) : decode cfg .cmd32 w = .ok (decodeCmd w) :=
  if_neg (Nat.not_le.mpr w.isLt)

/-- Neither the reserved bits nor the argument reach the opcode field. -/
theorem opcodeField_commandWord (op : BitVec 4) (res : BitVec 12) (arg : BitVec 16) :
    (op ++ res ++ arg).extractLsb' 28 4 = op := by
  rw [BitVec.extractLsb'_append_eq_of_le (by decide), BitVec.extractLsb'_append_eq_left]

theorem decodeCmd_play {w : BitVec 32} (h : w.extractLsb' 28 4 = 0x4) : decodeCmd w = .play := by
  rw [decodeCmd, h]
  rfl

/-! PLAY (R202). -/

theorem exec_play_idle {s : State} (h : s.arb = .idle) : exec .play s = .next (playAccept s) :=
  whenIdle_idle playAccept h

/-- Settles O25: the opcode field decides the decoding, and PLAY in Idle is PLAY_ACCEPT. -/
theorem playStartsAPlayback : Obligations.PlayStartsAPlayback := by
  unfold Obligations.PlayStartsAPlayback
  constructor
  · intro cfg res arg
    rw [decode_cmd32, decodeCmd_play (opcodeField_commandWord 0x4 res arg)]
  · intro s hidle
    rw [exec_play_idle hidle, playAccept_spec, memHeader]

/-! PLAY_COMPLETE (R204). -/

/-- In PlaybackActive no bit boundary goes before the end of the playback. -/
theorem ownStep_eq_playComplete (mem : Nat → Byte) {s : State} (henabled : bothEnabled s = false)
    (hplayed : s.arb = .playbackActive ∧ s.pbDone = true) : ownStep mem s = .next (playComplete s) := by
  have hboundary : ¬ (s.arb = .rttyActive ∧ s.holdCnt = 0) := by simp [hplayed.1]
  rw [ownStep, henabled, if_neg Bool.false_ne_true, if_neg hboundary, if_pos hplayed]

/-- Settles O49: the own step is PLAY_COMPLETE, which writes the two registers. -/
theorem playCompleteRestoresTheSource : Obligations.PlayCompleteRestoresTheSource := by
  unfold Obligations.PlayCompleteRestoresTheSource
  intro mem s harb hdone hsources
  rw [ownStep_eq_playComplete mem ((bothEnabled_eq_false_iff s).mpr hsources) ⟨harb, hdone⟩, playComplete]

end Sys2Proof.Proofs
end

section
/-! PROOFS. The host commands that end in their accept step (spec/45_host_commands.md R221, R222, R225 to R233): the row of a
command word, and the state each command answers in Idle. -/

namespace Sys2Proof.Proofs
open Sys2Proof.Machine

/-! The row of a command word (30_encoding.md R91 to R94). -/

/-- The opcode map of R93 as a function of the two fields that count: bits 27:16 have no part in it. -/
def commandRow (op : BitVec 4) (arg : BitVec 16) : Instr :=
  match op.toNat with
  | 0x0 => .nop
  | 0x1 => .msgclr
  | 0x2 => .msgput (arg.extractLsb' 0 8)
  | 0x3 => .send
  | 0x4 => .play
  | 0x5 => .sethi arg
  | 0x6 => .setlo arg
  | 0x7 => .setbaud arg
  | 0x8 => .rsttone
  | 0x9 => .gethi
  | 0xA => .getlo
  | 0xB => .getbaud
  | 0xC => .reservedC
  | 0xD => .reservedD
  | 0xE => .reservedE
  | _ => .reservedF

theorem argOf_commandWord (op : BitVec 4) (res : BitVec 12) (arg : BitVec 16) : argOf (op ++ res ++ arg) = arg :=
  BitVec.extractLsb'_append_eq_right

theorem argByte_commandWord (op : BitVec 4) (res : BitVec 12) (arg : BitVec 16) :
    argByte (op ++ res ++ arg) = arg.extractLsb' 0 8 :=
  BitVec.extractLsb'_append_eq_of_add_le (by decide)

/-- Every command word decodes to the row of its opcode and argument, whatever its reserved bits. -/
theorem decode_commandWord (cfg : Config) (op : BitVec 4) (res : BitVec 12) (arg : BitVec 16) :
    decode cfg .cmd32 (op ++ res ++ arg) = .ok (commandRow op arg) := by
  rw [decode_cmd32, decodeCmd, opcodeField_commandWord, argOf_commandWord, argByte_commandWord]
  rfl

/-! NOP and the reserved opcodes (R232, R233): their meanings are the identity. -/

/-- Settles O15: opcode 0 is NOP's row. -/
theorem nopHasNoEffect : Obligations.NopHasNoEffect := by
  unfold Obligations.NopHasNoEffect
  exact ⟨fun cfg res arg => decode_commandWord cfg 0x0 res arg, fun _ => rfl⟩

/-- Settles O16: each reserved opcode has a row of its own. -/
theorem reservedOpcodesHaveNoEffect : Obligations.ReservedOpcodesHaveNoEffect := by
  unfold Obligations.ReservedOpcodesHaveNoEffect
  constructor
  · intro cfg res arg
    exact ⟨decode_commandWord cfg 0xC res arg, decode_commandWord cfg 0xD res arg, decode_commandWord cfg 0xE res arg,
      decode_commandWord cfg 0xF res arg⟩
  · intro s
    exact ⟨rfl, rfl, rfl, rfl⟩

/-! The message buffer (R221, R222). -/

theorem exec_msgclr_idle {s : State} (h : s.arb = .idle) : exec .msgclr s = .next { s with msgLen := 0 } :=
  whenIdle_idle (fun s => { s with msgLen := 0 }) h

theorem exec_msgput_idle (c : Byte) {s : State} (h : s.arb = .idle) : exec (.msgput c) s = .next (msgPut c s) :=
  whenIdle_idle (msgPut c) h

/-- R6 keeps MSG_MAX within the 9 bits of MSG_LEN. -/
theorem msgMax_lt_of_paramsLawful {cfg : Config} (h : paramsLawful cfg = true) : cfg.msgMax < 512 := by
  simp only [paramsLawful, Bool.and_eq_true, decide_eq_true_eq] at h
  omega

/-- In a buffer with room MSG_LEN counts the new character: it cannot wrap below 512 cells. -/
theorem msgPut_msgLen_toNat (c : Byte) {s : State} (hmax : s.cfg.msgMax < 512) (hroom : s.msgLen.toNat < s.cfg.msgMax) :
    (msgPut c s).msgLen.toNat = s.msgLen.toNat + 1 := by
  rw [msgPut_room c hroom]
  exact BitVec.toNat_add_of_lt (show s.msgLen.toNat + 1 < 2 ^ 9 by omega)

theorem msgPut_read (c : Byte) {s : State} (hroom : s.msgLen.toNat < s.cfg.msgMax) (a : Nat) :
    Memory.read (msgPut c s).msg a = if a = s.msgLen.toNat then some c else Memory.read s.msg a := by
  rw [msgPut_room c hroom]
  exact Memory.read_write s.msg s.msgLen.toNat a c

theorem msgPut_msgChar_same (c : Byte) {s : State} (hroom : s.msgLen.toNat < s.cfg.msgMax) :
    (msgPut c s).msgChar s.msgLen.toNat = c := by
  rw [State.msgChar, msgPut_read c hroom, if_pos rfl, Option.getD_some]

/-- Settles O18: opcode 1 is MSGCLR's row, and MSGCLR writes MSG_LEN alone. -/
theorem msgclrEmptiesTheMessage : Obligations.MsgclrEmptiesTheMessage := by
  unfold Obligations.MsgclrEmptiesTheMessage
  exact ⟨fun cfg res arg => decode_commandWord cfg 0x1 res arg, fun _ hidle => exec_msgclr_idle hidle⟩

/-- Settles O19: MSGPUT in Idle is `msgPut`, which drops the character of a full buffer and writes one cell otherwise. -/
theorem msgputAppendsOneCharacter : Obligations.MsgputAppendsOneCharacter := by
  unfold Obligations.MsgputAppendsOneCharacter
  refine ⟨rfl, fun cfg res arg => decode_commandWord cfg 0x2 res arg, fun c s hidle hlawful => ⟨?full, ?room⟩⟩
  case full =>
    intro hfull
    rw [exec_msgput_idle c hidle, msgPut_full c hfull]
  case room =>
    intro hroom
    have hframe : msgPut c s = { s with msg := (msgPut c s).msg, msgLen := s.msgLen + 1 } := by
      rw [msgPut_room c hroom]
    have hlen := msgPut_msgLen_toNat c (msgMax_lt_of_paramsLawful hlawful) hroom
    have hothers : ∀ a, a ≠ s.msgLen.toNat → Memory.read (msgPut c s).msg a = Memory.read s.msg a := by
      intro a ha
      rw [msgPut_read c hroom, if_neg ha]
    exact ⟨msgPut c s, exec_msgput_idle c hidle, hframe, hlen, msgPut_msgChar_same c hroom, hothers⟩

/-! The tone registers (R225 to R228). -/

theorem exec_sethi_idle (v : BitVec 16) {s : State} (h : s.arb = .idle) :
    exec (.sethi v) s = .next { s with highHz := v } :=
  whenIdle_idle (fun s => { s with highHz := v }) h

theorem exec_setlo_idle (v : BitVec 16) {s : State} (h : s.arb = .idle) :
    exec (.setlo v) s = .next { s with lowHz := v } :=
  whenIdle_idle (fun s => { s with lowHz := v }) h

/-- SETBAUD in Idle: 0 alone is not stored. -/
theorem exec_setbaud_idle (v : BitVec 16) {s : State} (h : s.arb = .idle) :
    exec (.setbaud v) s = .next (if v ≠ 0 then { s with baudC := v } else s) :=
  whenIdle_idle (fun s => if v ≠ 0 then { s with baudC := v } else s) h

theorem exec_rsttone_idle {s : State} (h : s.arb = .idle) :
    exec .rsttone s =
      .next { s with highHz := s.cfg.defHighHz, lowHz := s.cfg.defLowHz, baudC := s.cfg.defBaudC } :=
  whenIdle_idle (fun s => { s with highHz := s.cfg.defHighHz, lowHz := s.cfg.defLowHz, baudC := s.cfg.defBaudC }) h

/-- Settles O21: opcodes 5 to 8 are the rows of the tone commands, each one write in Idle. -/
theorem toneCommandsWriteTheirRegisters : Obligations.ToneCommandsWriteTheirRegisters := by
  unfold Obligations.ToneCommandsWriteTheirRegisters
  constructor
  · intro cfg res arg
    exact ⟨decode_commandWord cfg 0x5 res arg, decode_commandWord cfg 0x6 res arg, decode_commandWord cfg 0x7 res arg,
      decode_commandWord cfg 0x8 res arg⟩
  · intro v s hidle
    have hstored : v ≠ 0 → exec (.setbaud v) s = .next { s with baudC := v } := by
      intro hv
      rw [exec_setbaud_idle v hidle, if_pos hv]
    have hignored : v = 0 → exec (.setbaud v) s = .next s := by
      intro hv
      rw [exec_setbaud_idle v hidle, if_neg (not_not_intro hv)]
    exact ⟨exec_sethi_idle v hidle, exec_setlo_idle v hidle, hstored, hignored, exec_rsttone_idle hidle, std_toneDefaults⟩

/-! The responses (R229 to R231, R102). -/

theorem exec_gethi_idle {s : State} (h : s.arb = .idle) : exec .gethi s = .next (respond (zext32 s.highHz) s) :=
  whenIdle_idle (fun s => respond (zext32 s.highHz) s) h

theorem exec_getlo_idle {s : State} (h : s.arb = .idle) : exec .getlo s = .next (respond (zext32 s.lowHz) s) :=
  whenIdle_idle (fun s => respond (zext32 s.lowHz) s) h

theorem exec_getbaud_idle {s : State} (h : s.arb = .idle) : exec .getbaud s = .next (respond (zext32 s.baudC) s) :=
  whenIdle_idle (fun s => respond (zext32 s.baudC) s) h

/-- A response of a 16-bit register writes the response port and the trace, and nothing of the block's registers. -/
theorem respond_zext32 (v : BitVec 16) (s : State) :
    respond (zext32 v) s = { s with rspPort := some (v.setWidth 32), trace := .rsp (v.setWidth 32) :: s.trace } := rfl

/-- Settles O22: opcodes 9 to B are the rows of the GET commands, each a response of its register in Idle. -/
theorem getCommandsRespond : Obligations.GetCommandsRespond := by
  unfold Obligations.GetCommandsRespond
  constructor
  · intro cfg res arg
    exact ⟨decode_commandWord cfg 0x9 res arg, decode_commandWord cfg 0xA res arg, decode_commandWord cfg 0xB res arg⟩
  · intro s hidle
    simp only [exec_gethi_idle hidle, exec_getlo_idle hidle, exec_getbaud_idle hidle, respond_zext32, and_self]

end Sys2Proof.Proofs
end

section
/-! PROOFS. The code tables (spec/40_baudot_codec.md R120, R125): what a lawful pair of tables says, and LOOKUP as the inverse
of the table. -/

namespace Sys2Proof.Proofs
open Sys2Proof.Machine

/-! What `tablesLawful` says. -/

/-- The invariants of R125 that each table has by itself: (a), CR, LF and space of (b), and (e). -/
structure TableLawful (cfg : Config) (t : Shift) : Prop where
  length_eq : (cfg.table t).length = 32
  nodup : (assignedChars cfg t).Nodup
  shared : ∀ c ∈ sharedChars, assigned cfg t c = true
  ltrs_free : tableAt cfg t cfg.codeLtrs = none
  figs_free : tableAt cfg t cfg.codeFigs = none

/-- The invariants of R125 one by one: each table's own, then (c), (d), and the two shift codes apart (R124). -/
theorem tablesLawful_spec {cfg : Config} (h : tablesLawful cfg = true) :
    (∀ t, TableLawful cfg t)
      ∧ (∀ c ∈ sharedChars, lookup cfg c .letters = lookup cfg c .figures)
      ∧ (∀ c ∈ assignedChars cfg .letters, c ∈ assignedChars cfg .figures → c ∈ sharedChars)
      ∧ cfg.codeLtrs ≠ cfg.codeFigs := by
  simp only [tablesLawful, Bool.and_eq_true, List.all_eq_true, beq_iff_eq, decide_eq_true_eq, bne_iff_ne] at h
  obtain ⟨⟨⟨htable, hshared⟩, hapart⟩, hcodes⟩ := h
  refine ⟨fun t => ?table, hshared, fun c hl hf => ?apart, hcodes⟩
  case table =>
    obtain ⟨⟨⟨⟨⟨hlen, hnodup⟩, -⟩, hassigned⟩, hltrs⟩, hfigs⟩ := htable t (by cases t <;> simp)
    exact ⟨hlen, hnodup, hassigned, hltrs, hfigs⟩
  case apart =>
    simpa [hf] using hapart c hl

/-- Settles O34: the check runs on the two instantiations' tables. -/
theorem codeTablesAreLawful : Obligations.CodeTablesAreLawful := by
  unfold Obligations.CodeTablesAreLawful
  constructor <;> decide

/-! LOOKUP as a search of the table. -/

theorem indexFrom_eq_findIdx? {α : Type} (p : α → Bool) (xs : List α) (n : Nat) :
    indexFrom p xs n = (xs.findIdx? p).map (· + n) := by
  induction xs generalizing n with
  | nil => rfl
  | cons x xs ih =>
    rw [indexFrom, List.findIdx?_cons, ih]
    split
    · simp
    · simp [Function.comp_def, Nat.add_assoc, Nat.add_comm 1]

theorem lookup_eq_findIdx? (cfg : Config) (c : Byte) (t : Shift) :
    lookup cfg c t = ((cfg.table t).findIdx? (· == some c)).map (BitVec.ofNat 5) := by
  simp [lookup, indexFrom_eq_findIdx?]

/-- A code names a character exactly when the table's entry there is that character. -/
theorem tableAt_eq_some_iff {cfg : Config} {t : Shift} {k : Code} {c : Byte} :
    tableAt cfg t k = some c ↔ (cfg.table t)[k.toNat]? = some (some c) := by
  rw [tableAt, List.getD_eq_getElem?_getD]
  cases (cfg.table t)[k.toNat]? <;> simp

/-- R125 (a): no character stands at two places. -/
theorem place_unique {xs : List (Option Byte)} (h : (xs.filterMap id).Nodup) {c : Byte} {i j : Nat}
    (hi : xs[i]? = some (some c)) (hj : xs[j]? = some (some c)) : i = j := by
  have hpair := List.pairwise_iff_getElem.mp (List.pairwise_filterMap.mp h)
  obtain ⟨hilt, hi⟩ := List.getElem?_eq_some_iff.mp hi
  obtain ⟨hjlt, hj⟩ := List.getElem?_eq_some_iff.mp hj
  rcases Nat.lt_trichotomy i j with hlt | heq | hlt
  · exact absurd rfl (hpair i j hilt hjlt hlt c hi c hj)
  · exact heq
  · exact absurd rfl (hpair j i hjlt hilt hlt c hj c hi)

/-- LOOKUP and the table are inverse to each other (R120, R130). -/
theorem lookup_eq_some_iff {cfg : Config} {t : Shift} (ht : TableLawful cfg t) {c : Byte} {k : Code} :
    lookup cfg c t = some k ↔ tableAt cfg t k = some c := by
  rw [lookup_eq_findIdx?, tableAt_eq_some_iff]
  constructor
  · intro h
    obtain ⟨i, hi, rfl⟩ := Option.map_eq_some_iff.mp h
    obtain ⟨hlt, hat, -⟩ := List.findIdx?_eq_some_iff_getElem.mp hi
    have hlen := ht.length_eq
    have hmod : (BitVec.ofNat 5 i).toNat = i := by rw [BitVec.toNat_ofNat]; omega
    rw [hmod, List.getElem?_eq_getElem hlt]
    simpa using hat
  · intro h
    cases hfind : (cfg.table t).findIdx? (· == some c) with
    | none =>
      have hmem := List.mem_of_getElem? h
      exact absurd (List.findIdx?_eq_none_iff.mp hfind _ hmem) (by simp)
    | some i =>
      obtain ⟨hlt, hat, -⟩ := List.findIdx?_eq_some_iff_getElem.mp hfind
      have hplace : i = k.toNat := place_unique ht.nodup (by simpa [hlt] using hat) h
      simp [hplace]

/-- LOOKUP answers no shift code (R125 (e)). -/
theorem lookup_ne_shiftCodes {cfg : Config} {t : Shift} (ht : TableLawful cfg t) {c : Byte} {k : Code}
    (h : lookup cfg c t = some k) : k ≠ cfg.codeLtrs ∧ k ≠ cfg.codeFigs := by
  have hat := (lookup_eq_some_iff ht).mp h
  constructor
  · rintro rfl
    simp [ht.ltrs_free] at hat
  · rintro rfl
    simp [ht.figs_free] at hat

/-- Settles O35: in the default tables position 0 is empty, so LOOKUP cannot answer it. -/
theorem lookupInvertsTheTable : Obligations.LookupInvertsTheTable := by
  unfold Obligations.LookupInvertsTheTable
  intro cfg c t k h
  have ht := (tablesLawful_spec h).1 t
  refine ⟨lookup_eq_some_iff ht, lookup_ne_shiftCodes ht, fun hzero => ?_⟩
  have hstd := (tablesLawful_spec (paramsLawful_spec codeTablesAreLawful.1).2.2.2.2.2.2.2).1 t
  have hat := (lookup_eq_some_iff hstd).mp hzero
  cases t <;> cases hat

/-! Characters of both tables (R123, R125 (c), (d)). -/

theorem mem_assignedChars_of_lookup {cfg : Config} {t : Shift} (ht : TableLawful cfg t) {c : Byte} {k : Code}
    (h : lookup cfg c t = some k) : c ∈ assignedChars cfg t :=
  List.mem_filterMap.mpr ⟨some c, List.mem_of_getElem? (tableAt_eq_some_iff.mp ((lookup_eq_some_iff ht).mp h)), rfl⟩

/-- A shared character has one code, in whichever table it is looked up. -/
theorem lookup_shared {cfg : Config} (h : tablesLawful cfg = true) {c : Byte} (hc : c ∈ sharedChars) (t u : Shift) :
    lookup cfg c t = lookup cfg c u := by
  have heq := (tablesLawful_spec h).2.1 c hc
  cases t <;> cases u <;> simp [heq]

/-- Only CR, LF and space stand in both tables. -/
theorem mem_sharedChars_of_lookup_both {cfg : Config} (h : tablesLawful cfg = true) {c : Byte} {t : Shift}
    {k k' : Code} (hk : lookup cfg c t = some k) (hk' : lookup cfg c t.other = some k') : c ∈ sharedChars := by
  obtain ⟨htable, -, hboth, -⟩ := tablesLawful_spec h
  cases t with
  | letters => exact hboth c (mem_assignedChars_of_lookup (htable _) hk) (mem_assignedChars_of_lookup (htable _) hk')
  | figures => exact hboth c (mem_assignedChars_of_lookup (htable _) hk') (mem_assignedChars_of_lookup (htable _) hk)

/-- The code of a character its table assigns. -/
theorem lookup_eq_entryCode {cfg : Config} {t : Shift} {c : Byte} (h : assigned cfg t c = true) :
    lookup cfg c t = some (entryCode cfg t c) := by
  obtain ⟨k, hk⟩ := Option.isSome_iff_exists.mp h
  simp [entryCode, hk]

/-- CR, LF and space have their code in every lawful table. -/
theorem lookup_shared_eq_entryCode {cfg : Config} (h : tablesLawful cfg = true) {c : Byte} (hc : c ∈ sharedChars)
    (t : Shift) : lookup cfg c t = some (entryCode cfg .letters c) :=
  (lookup_shared h hc t .letters).trans (lookup_eq_entryCode (((tablesLawful_spec h).1 .letters).shared c hc))

end Sys2Proof.Proofs
end

section
/-! PROOFS. The plan as codes (spec/41_bitstream_framer.md R143 to R148, R152): its preamble, its length, its shift symbols,
and what a receiver reads from it. -/

namespace Sys2Proof.Proofs
open Sys2Proof.Machine

/-! The preamble (R143, R144). -/

/-- With lawful tables a plan is CR, LF, the initial shift code, and the text's codes. -/
theorem planCodes_lawful {cfg : Config} (h : tablesLawful cfg = true) (text : List Byte) :
    planCodes cfg text = entryCode cfg .letters 0x0D :: entryCode cfg .letters 0x0A
      :: shiftCode cfg (initialShift cfg text) :: (textCodes cfg (initialShift cfg text) text).1 := by
  have hcr := lookup_shared_eq_entryCode h (c := 0x0D) (by decide) .letters
  have hlf := lookup_shared_eq_entryCode h (c := 0x0A) (by decide) .letters
  rw [planCodes, hcr, hlf]
  rfl

@[simp] theorem framedBits_cons (k : Code) (ks : List Code) : framedBits (k :: ks) = frame k ++ framedBits ks := rfl

@[simp] theorem framedBits_append (xs ys : List Code) : framedBits (xs ++ ys) = framedBits xs ++ framedBits ys :=
  List.flatMap_append

/-- Settles O36: the first three codes are the preamble's, and the default CR and LF are codes 0x08 and 0x02. -/
theorem plansBeginWithThePreamble : Obligations.PlansBeginWithThePreamble := by
  unfold Obligations.PlansBeginWithThePreamble
  refine ⟨fun cfg text h => ⟨framedBits (textCodes cfg (initialShift cfg text) text).1, ?_⟩, by decide, by decide⟩
  rw [planCodes_lawful h]
  simp

/-! The codes of one character (R145). -/

/-- The three cases of the per-character rule: in the active table, in the other one, in neither. -/
inductive CharCase (cfg : Config) (t : Shift) (c : Byte) : Prop where
  | active (k : Code) (here : lookup cfg c t = some k) (codes : charCodes cfg t c = ([k], t))
  | shifted (k : Code) (notHere : lookup cfg c t = none) (there : lookup cfg c t.other = some k)
      (codes : charCodes cfg t c = ([shiftCode cfg t.other, k], t.other))
  | dropped (notHere : lookup cfg c t = none) (notThere : lookup cfg c t.other = none)
      (codes : charCodes cfg t c = ([], t))

theorem charCase (cfg : Config) (t : Shift) (c : Byte) : CharCase cfg t c := by
  cases here : lookup cfg c t with
  | some k => exact .active k here (by simp [charCodes, here])
  | none =>
    cases there : lookup cfg c t.other with
    | some k => exact .shifted k here there (by simp [charCodes, here, there])
    | none => exact .dropped here there (by simp [charCodes, here, there])

/-- A character is unencodable when neither the active table nor the other one holds it. -/
theorem unencodable_eq (cfg : Config) (c : Byte) (t : Shift) :
    unencodable cfg c = (!(lookup cfg c t).isSome && !(lookup cfg c t.other).isSome) := by
  cases t
  · rfl
  · exact Bool.and_comm _ _

@[simp] theorem textCodes_nil (cfg : Config) (t : Shift) : textCodes cfg t [] = ([], t) := rfl

@[simp] theorem textCodes_cons (cfg : Config) (t : Shift) (c : Byte) (cs : List Byte) :
    textCodes cfg t (c :: cs) = ((charCodes cfg t c).1 ++ (textCodes cfg (charCodes cfg t c).2 cs).1,
      (textCodes cfg (charCodes cfg t c).2 cs).2) := rfl

/-! Counting codes (R148). -/

/-- The two codes that no character has. -/
def isShiftCode (cfg : Config) (k : Code) : Bool := k == cfg.codeLtrs || k == cfg.codeFigs

theorem isShiftCode_shiftCode (cfg : Config) (t : Shift) : isShiftCode cfg (shiftCode cfg t) = true := by
  cases t <;> simp [isShiftCode, shiftCode]

theorem isShiftCode_of_lookup {cfg : Config} (h : tablesLawful cfg = true) {c : Byte} {t : Shift} {k : Code}
    (hk : lookup cfg c t = some k) : isShiftCode cfg k = false := by
  obtain ⟨hltrs, hfigs⟩ := lookup_ne_shiftCodes ((tablesLawful_spec h).1 t) hk
  simp [isShiftCode, hltrs, hfigs]

@[simp] theorem shiftCount_nil (cfg : Config) : shiftCount cfg [] = 0 := rfl

@[simp] theorem shiftCount_cons (cfg : Config) (k : Code) (ks : List Code) :
    shiftCount cfg (k :: ks) = shiftCount cfg ks + if isShiftCode cfg k then 1 else 0 := by
  unfold shiftCount isShiftCode
  rw [List.filter_cons]
  split <;> simp

@[simp] theorem shiftCount_append (cfg : Config) (xs ys : List Code) :
    shiftCount cfg (xs ++ ys) = shiftCount cfg xs + shiftCount cfg ys := by
  simp [shiftCount]

theorem encodableCount_cons (cfg : Config) (c : Byte) (cs : List Byte) :
    encodableCount cfg (c :: cs) = encodableCount cfg cs + if unencodable cfg c then 0 else 1 := by
  unfold encodableCount
  rw [List.filter_cons]
  cases unencodable cfg c <;> simp

/-- One character costs its own code, if it has one, and at most one shift code before it. -/
theorem charCodes_counts {cfg : Config} (h : tablesLawful cfg = true) (t : Shift) (c : Byte) :
    (charCodes cfg t c).1.length = (if unencodable cfg c then 0 else 1) + shiftCount cfg (charCodes cfg t c).1
      ∧ shiftCount cfg (charCodes cfg t c).1 ≤ if unencodable cfg c then 0 else 1 := by
  rw [unencodable_eq cfg c t]
  cases charCase cfg t c with
  | active k here codes => simp [codes, here, isShiftCode_of_lookup h here]
  | shifted k notHere there codes =>
    simp [codes, notHere, there, isShiftCode_of_lookup h there, isShiftCode_shiftCode]
  | dropped notHere notThere codes => simp [codes, notHere, notThere]

theorem textCodes_counts {cfg : Config} (h : tablesLawful cfg = true) (t : Shift) (text : List Byte) :
    (textCodes cfg t text).1.length = encodableCount cfg text + shiftCount cfg (textCodes cfg t text).1
      ∧ shiftCount cfg (textCodes cfg t text).1 ≤ encodableCount cfg text := by
  induction text generalizing t with
  | nil => exact ⟨rfl, Nat.le_refl 0⟩
  | cons c cs ih =>
    obtain ⟨hlen, hle⟩ := charCodes_counts h t c
    obtain ⟨hlens, hles⟩ := ih (charCodes cfg t c).2
    simp only [textCodes_cons, List.length_append, shiftCount_append, encodableCount_cons]
    omega

/-- The initial shift state is chosen by the first character, which so needs no shift of its own (R142). -/
theorem charCodes_first_length_le (cfg : Config) (c : Byte) (cs : List Byte) :
    (charCodes cfg (initialShift cfg (c :: cs)) c).1.length ≤ 1 := by
  cases hl : lookup cfg c .letters with
  | some k => simp [initialShift, hl, charCodes]
  | none => cases hf : lookup cfg c .figures <;> simp [initialShift, hl, hf, charCodes, Shift.other]

/-- Settles O37: each character's codes are counted by the induction over the text; the first of them costs one at most. -/
theorem planLengthCountsCharactersAndShifts : Obligations.PlanLengthCountsCharactersAndShifts := by
  unfold Obligations.PlanLengthCountsCharactersAndShifts
  intro cfg text h
  obtain ⟨hlen, hle⟩ := textCodes_counts h (initialShift cfg text) text
  rw [planCodes_lawful h]
  simp only [List.length_cons]
  refine ⟨by omega, hle, fun hne => ?_⟩
  obtain ⟨c, cs, rfl⟩ := List.exists_cons_of_ne_nil hne
  have hfirst := charCodes_first_length_le cfg c cs
  have hrest := textCodes_length_le cfg (charCodes cfg (initialShift cfg (c :: cs)) c).2 cs
  simp only [textCodes_cons, List.length_append, List.length_cons]
  omega

/-! Shift symbols within the text (R152 properties 3 and 5). -/

/-- A text the active table holds whole is sent in that table throughout. -/
theorem textCodes_no_shift {cfg : Config} (h : tablesLawful cfg = true) {t : Shift} {text : List Byte}
    (htext : ∀ c ∈ text, (lookup cfg c t).isSome = true) : shiftCount cfg (textCodes cfg t text).1 = 0 := by
  induction text with
  | nil => rfl
  | cons c cs ih =>
    obtain ⟨k, hk⟩ := Option.isSome_iff_exists.mp (htext c List.mem_cons_self)
    have hcodes : charCodes cfg t c = ([k], t) := by simp [charCodes, hk]
    have htail := ih (fun d hd => htext d (List.mem_cons_of_mem c hd))
    simp [hcodes, htail, isShiftCode_of_lookup h hk]

/-- Settles O38: in both cases the initial shift state is the table that holds the whole text. -/
theorem oneTableMessagesNeedOneShift : Obligations.OneTableMessagesNeedOneShift := by
  unfold Obligations.OneTableMessagesNeedOneShift
  intro cfg text h hne honeTable
  rcases honeTable with hletters | ⟨hfigures, c, cs, rfl, hfirst⟩
  · obtain ⟨c, cs, rfl⟩ := List.exists_cons_of_ne_nil hne
    have hinit : initialShift cfg (c :: cs) = .letters := if_pos (hletters c List.mem_cons_self)
    rw [hinit]
    exact textCodes_no_shift h hletters
  · have hinit : initialShift cfg (c :: cs) = .figures := by simp [initialShift, hfirst]
    rw [hinit]
    exact textCodes_no_shift h hfigures

/-- Two codes in a row of which one at least is a character's. -/
def NotBothShifts (cfg : Config) (a b : Code) : Prop := ¬ (isShiftCode cfg a = true ∧ isShiftCode cfg b = true)

/-- A character's codes end with its own code, and no two of them are shift codes. -/
theorem charCodes_chain {cfg : Config} (h : tablesLawful cfg = true) (t : Shift) (c : Byte) :
    (charCodes cfg t c).1.IsChain (NotBothShifts cfg)
      ∧ ∀ k ∈ (charCodes cfg t c).1.getLast?, isShiftCode cfg k = false := by
  cases charCase cfg t c with
  | active k here codes => simp [codes, isShiftCode_of_lookup h here]
  | shifted k notHere there codes => simp [codes, isShiftCode_of_lookup h there, NotBothShifts]
  | dropped notHere notThere codes => simp [codes]

theorem textCodes_chain {cfg : Config} (h : tablesLawful cfg = true) (t : Shift) (text : List Byte) :
    (textCodes cfg t text).1.IsChain (NotBothShifts cfg) := by
  induction text generalizing t with
  | nil => exact List.isChain_nil
  | cons c cs ih =>
    obtain ⟨hchain, hlast⟩ := charCodes_chain h t c
    rw [textCodes_cons]
    refine List.isChain_append.mpr ⟨hchain, ih _, fun a ha b _ hboth => ?_⟩
    simp [hlast a ha] at hboth

/-- Settles O39: the text's codes are a chain in which no shift code follows another. -/
theorem textNeverShiftsTwiceInARow : Obligations.TextNeverShiftsTwiceInARow := by
  unfold Obligations.TextNeverShiftsTwiceInARow
  intro cfg t text xs ys a b h hcodes hboth
  have hchain := textCodes_chain h t text
  rw [hcodes] at hchain
  obtain ⟨-, hpair, -⟩ := List.isChain_append_cons_cons.mp hchain
  exact hpair (by simpa [isShiftCode] using hboth)

/-! The receiver (40_baudot_codec.md R130; R152 property 4). -/

/-- A frame's start and stop bits are right, and its data bits are its code. -/
theorem symbolCode_frame (k : Code) :
    symbolCode false (k.getLsbD 0) (k.getLsbD 1) (k.getLsbD 2) (k.getLsbD 3) (k.getLsbD 4) true true = some k := by
  revert k
  decide

/-- One symbol of a stream: a shift code sets the table, any other code is a character of the table in force or an
error. -/
theorem receive_frame (cfg : Config) (t : Shift) (k : Code) (bs : List Bool) :
    receive cfg t (frame k ++ bs) =
      if k = cfg.codeLtrs then receive cfg .letters bs
      else if k = cfg.codeFigs then receive cfg .figures bs
      else (tableAt cfg t k).bind (fun c => (receive cfg t bs).map (c :: ·)) := by
  simp only [frame, List.cons_append, List.nil_append, receive, symbolCode_frame]
  cases tableAt cfg t k <;> rfl

theorem receive_shiftCode {cfg : Config} (h : tablesLawful cfg = true) (t u : Shift) (bs : List Bool) :
    receive cfg t (frame (shiftCode cfg u) ++ bs) = receive cfg u bs := by
  have hne := (tablesLawful_spec h).2.2.2
  cases u <;> simp [receive_frame, shiftCode, hne.symm]

/-- A code of the receiver's table is read as its character. -/
theorem receive_code {cfg : Config} (h : tablesLawful cfg = true) {t : Shift} {c : Byte} {k : Code}
    (hk : lookup cfg c t = some k) (bs : List Bool) :
    receive cfg t (frame k ++ bs) = (receive cfg t bs).map (c :: ·) := by
  have ht := (tablesLawful_spec h).1 t
  obtain ⟨hltrs, hfigs⟩ := lookup_ne_shiftCodes ht hk
  simp [receive_frame, hltrs, hfigs, (lookup_eq_some_iff ht).mp hk]

/-- A character's codes are read as the character, or as nothing if it is unencodable, and leave the receiver in the
framer's own shift state. -/
theorem receive_charCodes {cfg : Config} (h : tablesLawful cfg = true) (t : Shift) (c : Byte) (bs : List Bool) :
    receive cfg t (framedBits (charCodes cfg t c).1 ++ bs) =
      (receive cfg (charCodes cfg t c).2 bs).map ([c].filter (fun c => !unencodable cfg c) ++ ·) := by
  have hdrop := unencodable_eq cfg c t
  cases charCase cfg t c with
  | active k here codes =>
    have hkept : unencodable cfg c = false := by simp [hdrop, here]
    simp [codes, framedBits, receive_code h here, hkept]
  | shifted k notHere there codes =>
    have hkept : unencodable cfg c = false := by simp [hdrop, there]
    simp [codes, framedBits, receive_shiftCode h, receive_code h there, hkept]
  | dropped notHere notThere codes =>
    have hdropped : unencodable cfg c = true := by simp [hdrop, notHere, notThere]
    simp [codes, framedBits, hdropped]

theorem receive_textCodes {cfg : Config} (h : tablesLawful cfg = true) (t : Shift) (text : List Byte) :
    receive cfg t (framedBits (textCodes cfg t text).1) = some (text.filter (fun c => !unencodable cfg c)) := by
  induction text generalizing t with
  | nil => rfl
  | cons c cs ih =>
    rw [textCodes_cons, framedBits_append, receive_charCodes h, ih, Option.map_some, ← List.filter_append]
    rfl

/-- Settles O40: CR and LF are read in whichever state the receiver starts, the shift symbol brings it into the framer's
state, and the text follows by induction. -/
theorem receiverRecoversTheMessage : Obligations.ReceiverRecoversTheMessage := by
  unfold Obligations.ReceiverRecoversTheMessage
  intro cfg t text h
  have hcr := lookup_shared_eq_entryCode h (c := 0x0D) (by decide) t
  have hlf := lookup_shared_eq_entryCode h (c := 0x0A) (by decide) t
  rw [planCodes_lawful h, framedBits_cons, framedBits_cons, framedBits_cons, receive_code h hcr, receive_code h hlf,
    receive_shiftCode h, receive_textCodes h]
  rfl

end Sys2Proof.Proofs
end

section
/-! PROOFS. Decode and encode (spec/30_encoding.md): every format's words and units correspond, row by row for the code tables
and field by field for the other formats. -/

namespace Sys2Proof.Proofs
open Sys2Proof.Machine

/-! The command port (R91 to R94). -/

/-- Settles O12: the row depends on the opcode and the operand alone. -/
theorem everyCommandWordDecodes : Obligations.EveryCommandWordDecodes := by
  unfold Obligations.EveryCommandWordDecodes
  intro cfg op res arg
  exact ⟨commandRow op arg, decode_commandWord cfg op res arg, decode_commandWord cfg op 0 arg⟩

/-- Settles O13: each word is run through the decoder. -/
theorem spelledOutWordsDecode : Obligations.SpelledOutWordsDecode := by
  unfold Obligations.SpelledOutWordsDecode
  decide

/-- A command's own word decodes to it: its opcode selects its row and its operand stands in the low bits. -/
theorem decodeCmd_encode (cfg : Config) {i : Instr} (h : i.format = .cmd32) : decodeCmd (encode cfg i) = i := by
  have hrow (op : BitVec 4) (arg : BitVec 16) : decodeCmd (cmdWord op arg) = commandRow op arg :=
    Except.ok.inj ((decode_cmd32 cfg _).symm.trans (decode_commandWord cfg op 0 arg))
  cases i <;> cases h
  case msgput c =>
    have hlow : (c.setWidth 16).extractLsb' 0 8 = c := by
      rw [BitVec.extractLsb'_setWidth_of_le (by decide), BitVec.extractLsb'_eq_self]
    rw [encode, hrow, commandRow]
    exact congrArg Instr.msgput hlow
  case sethi f => exact hrow 0x5 f
  case setlo f => exact hrow 0x6 f
  case setbaud b => exact hrow 0x7 b
  all_goals
    dsimp only [encode]
    decide

theorem wellFormed_of_command (cfg : Config) {i : Instr} (h : i.format = .cmd32) : i.wellFormed cfg = true := by
  cases i <;> cases h <;> rfl

theorem decodeCmd_format (w : BitVec 32) : (decodeCmd w).format = .cmd32 := by
  unfold decodeCmd
  split <;> rfl

/-! The rows of the code tables (R96, R97; 40_baudot_codec.md R121, R122). -/

/-- What every row `i` of the table of `t` with character `c` has in common. -/
structure CodeRow (t : Shift) (c : Byte) (i : Instr) : Prop where
  mem : (c, i) ∈ codeRows t
  format_eq : i.format = .b5 t
  entryRow_eq : entryRow t c = some i
  encode_eq : ∀ cfg, encode cfg i = entryWord cfg t c
  wellFormed_eq : ∀ cfg, i.wellFormed cfg = assigned cfg t c
  shared_iff : i ∈ sharedRows ↔ c ∈ sharedChars
  exec_eq : ∀ s, exec i s = onBenchFramer (putChar s.cfg c) s

theorem codeRow_of_mem {t : Shift} {c : Byte} {i : Instr} (h : (c, i) ∈ codeRows t) : CodeRow t c i := by
  cases t <;> fin_cases h <;>
    exact ⟨by decide, rfl, rfl, fun _ => rfl, fun _ => rfl, by decide, fun _ => rfl⟩

/-- A B5 unit is a shift code or a row of its table. -/
theorem exists_codeRow {t : Shift} {i : Instr} (h : i.format = .b5 t) (hltrs : i ≠ .codeLtrs) (hfigs : i ≠ .codeFigs) :
    ∃ c, CodeRow t c i := by
  have hrow : i = .codeLtrs ∨ i = .codeFigs ∨ i ∈ (codeRows t).map Prod.snd := by
    cases i <;> cases h <;> decide
  obtain ⟨⟨c, _⟩, hmem, rfl⟩ := List.mem_map.mp ((hrow.resolve_left hltrs).resolve_left hfigs)
  exact ⟨c, codeRow_of_mem hmem⟩

theorem codeRow_of_entryRow {t : Shift} {c : Byte} {i : Instr} (h : entryRow t c = some i) : CodeRow t c i := by
  obtain ⟨⟨d, _⟩, hfind, rfl⟩ := Option.map_eq_some_iff.mp h
  obtain rfl : d = c := by simpa using List.find?_some hfind
  exact codeRow_of_mem (List.mem_of_find?_eq_some hfind)

/-- The units a code stands for: the two shift codes, and the row of the character the table has there. -/
theorem decodeCode_eq_ok_iff {cfg : Config} (h : tablesLawful cfg = true) {t : Shift} {k : Code} {i : Instr} :
    decodeCode cfg t k = .ok i ↔
      (k = cfg.codeLtrs ∧ i = .codeLtrs) ∨ (k = cfg.codeFigs ∧ i = .codeFigs)
        ∨ ∃ c, lookup cfg c t = some k ∧ CodeRow t c i := by
  obtain ⟨htable, -, -, hne⟩ := tablesLawful_spec h
  have ht := htable t
  constructor
  · intro hdec
    unfold decodeCode at hdec
    split at hdec
    · next hk => exact .inl ⟨hk, (Except.ok.inj hdec).symm⟩
    split at hdec
    · next hk => exact .inr (.inl ⟨hk, (Except.ok.inj hdec).symm⟩)
    split at hdec
    · cases hdec
    next c hat =>
    split at hdec
    · cases hdec
    next j hrow =>
    cases hdec
    exact .inr (.inr ⟨c, (lookup_eq_some_iff ht).mpr hat, codeRow_of_entryRow hrow⟩)
  · rintro (⟨rfl, rfl⟩ | ⟨rfl, rfl⟩ | ⟨c, hlook, hrow⟩)
    · simp [decodeCode]
    · simp [decodeCode, hne.symm]
    · obtain ⟨hltrs, hfigs⟩ := lookup_ne_shiftCodes ht hlook
      simp [decodeCode, hltrs, hfigs, (lookup_eq_some_iff ht).mp hlook, hrow.entryRow_eq]

/-! Words by their fields. -/

/-- A word that sets no bit from `n` on is its low `n` bits. -/
theorem exists_setWidth_of_lt {n : Nat} {w : BitVec 32} (h : w.toNat < 2 ^ n) : ∃ v : BitVec n, w = v.setWidth 32 := by
  refine ⟨w.setWidth n, BitVec.eq_of_toNat_eq ?_⟩
  simp [Nat.mod_eq_of_lt h, Nat.mod_eq_of_lt w.isLt]

theorem setWidth_extractLsb'_self {n : Nat} (hn : n ≤ 32) (v : BitVec n) : (v.setWidth 32).extractLsb' 0 n = v := by
  rw [BitVec.extractLsb'_setWidth_of_le (by omega), BitVec.extractLsb'_eq_self]

/-- A response word is its low half, behind 16 zeros (R102). -/
theorem eq_setWidth_of_upperHalf_zero {w : BitVec 32} (h : w.extractLsb' 16 16 = 0) :
    w = (w.extractLsb' 0 16).setWidth 32 := by
  have hsplit : w.extractLsb' 16 16 ++ w.extractLsb' 0 16 = w := BitVec.extractLsb'_append_extractLsb'
  rw [h] at hsplit
  rw [BitVec.setWidth_eq_append (by decide)]
  exact hsplit.symm

/-- The five flags and ARB of a status word (10_state.md R42). -/
theorem statusWord_fields (d a p e sh : Bool) (k : BitVec 2) :
    (statusWord d a p e sh k).getLsbD 7 = false ∧ (statusWord d a p e sh k).getLsbD 6 = d
      ∧ (statusWord d a p e sh k).getLsbD 5 = a ∧ (statusWord d a p e sh k).getLsbD 4 = p
      ∧ (statusWord d a p e sh k).getLsbD 3 = e ∧ (statusWord d a p e sh k).getLsbD 2 = sh
      ∧ (statusWord d a p e sh k).extractLsb' 0 2 = k := by
  revert d a p e sh k
  decide

theorem statusWord_of_fields (b : Byte) (h : (b.setWidth 32).getLsbD 7 = false) :
    statusWord ((b.setWidth 32).getLsbD 6) ((b.setWidth 32).getLsbD 5) ((b.setWidth 32).getLsbD 4)
      ((b.setWidth 32).getLsbD 3) ((b.setWidth 32).getLsbD 2) ((b.setWidth 32).extractLsb' 0 2) = b.setWidth 32 := by
  revert b
  decide

/-- The start bit, the stop bits and the code of a framed symbol (R95). -/
theorem symWord_fields (k : Code) :
    (symWord k).getLsbD 7 = false ∧ (symWord k).extractLsb' 0 2 = 3 ∧ symCode (symWord k) = k := by
  revert k
  decide

theorem symWord_of_fields (b : Byte) (hstart : (b.setWidth 32).getLsbD 7 = false)
    (hstop : (b.setWidth 32).extractLsb' 0 2 = 3) : symWord (symCode (b.setWidth 32)) = b.setWidth 32 := by
  revert b
  decide

/-- The configuration, the sample and the padding of a converter frame (R98). -/
theorem dacFrame_fields (cfg : Config) (x : Byte) :
    ((dacFrame cfg x).setWidth 32).extractLsb' 12 4 = cfg.dacCfg
      ∧ ((dacFrame cfg x).setWidth 32).extractLsb' 0 4 = 0 ∧ ((dacFrame cfg x).setWidth 32).extractLsb' 4 8 = x := by
  refine ⟨?_, ?_, ?_⟩ <;> rw [BitVec.extractLsb'_setWidth_of_le (by decide), dacFrame]
  · rw [BitVec.extractLsb'_append_eq_of_le (by decide), BitVec.extractLsb'_append_eq_left]
  · exact BitVec.extractLsb'_append_eq_right
  · rw [BitVec.extractLsb'_append_eq_of_le (by decide), BitVec.extractLsb'_append_eq_right]

theorem dacFrame_of_fields {cfg : Config} {v : BitVec 16} (hcfg : (v.setWidth 32).extractLsb' 12 4 = cfg.dacCfg)
    (hpad : (v.setWidth 32).extractLsb' 0 4 = 0) : dacFrame cfg ((v.setWidth 32).extractLsb' 4 8) = v := by
  rw [BitVec.extractLsb'_setWidth_of_le (by decide)] at hcfg hpad ⊢
  rw [dacFrame, ← hcfg, ← hpad, BitVec.extractLsb'_append_extractLsb'_eq_extractLsb' (by decide)]
  exact BitVec.extractLsb'_append_extractLsb'

/-! The words of every format. -/

/-- `w` is a word of format `f`, and `i` the unit it stands for. -/
inductive WordOf (cfg : Config) : Format → BitVec 32 → Instr → Prop where
  | command (w : BitVec 32) : WordOf cfg .cmd32 w (decodeCmd w)
  | response (v : BitVec 16) : WordOf cfg .rsp32 (v.setWidth 32) (.rsp v)
  | status (d a p e sh : Bool) (k : BitVec 2) (hk : k ≠ 3) :
      WordOf cfg .status8 (statusWord d a p e sh k) (.status d a p e sh k)
  | code (t : Shift) (k : Code) (i : Instr) (hcode : decodeCode cfg t k = .ok i) : WordOf cfg (.b5 t) (k.setWidth 32) i
  | symbol (k : Code) : WordOf cfg .sym8 (symWord k) (symRow cfg k)
  | converterFrame (x : Byte) : WordOf cfg .dac16 ((dacFrame cfg x).setWidth 32) (.dacframe x)
  | header : WordOf cfg .mem32 (memHeader cfg) .memcmd
  | streamed (b : Byte) : WordOf cfg .memByte (b.setWidth 32) (.membyte b)

theorem decode_of_wordOf {cfg : Config} {f : Format} {w : BitVec 32} {i : Instr} (h : WordOf cfg f w i) :
    decode cfg f w = .ok i := by
  have hfits : ¬ 2 ^ f.width ≤ w.toNat := by
    apply Nat.not_le.mpr
    cases h
    case command => exact w.isLt
    case response v => exact Nat.lt_trans (Laws.setWidth_lt v) (by decide)
    case header => exact BitVec.isLt _
    all_goals exact Laws.setWidth_lt _
  unfold decode
  rw [if_neg hfits]
  cases h
  case command => rfl
  case header => exact if_pos rfl
  case code t k hcode =>
    dsimp only
    rw [setWidth_extractLsb'_self (by decide), hcode]
  case response v =>
    have hupper : (v.setWidth 32).extractLsb' 16 16 = 0 := by
      rw [BitVec.setWidth_eq_append (by decide)]
      exact BitVec.extractLsb'_append_eq_left
    dsimp only
    rw [if_neg (not_not_intro hupper), setWidth_extractLsb'_self (by decide)]
  case status d a p e sh k hk =>
    obtain ⟨hzero, hd, ha, hp, he, hsh, hk'⟩ := statusWord_fields d a p e sh k
    simp only [decodeStatus, hzero, hd, ha, hp, he, hsh, hk', hk, Bool.false_eq_true, if_false]
  case symbol k =>
    obtain ⟨hstart, hstop, hcode⟩ := symWord_fields k
    simp only [decodeSym, hstart, hstop, hcode, Bool.false_eq_true, if_false, ne_eq, not_true_eq_false]
  case converterFrame x =>
    obtain ⟨hcfg, hpad, hx⟩ := dacFrame_fields cfg x
    simp only [decodeDac, hcfg, hpad, hx, if_false, ne_eq, not_true_eq_false]
  case streamed b =>
    dsimp only
    rw [setWidth_extractLsb'_self (by decide)]

/-- Every word the decoder takes is put together from its fields. -/
theorem exists_wordOf {cfg : Config} {f : Format} {w : BitVec 32} {i : Instr} (h : decode cfg f w = .ok i) :
    ∃ j, WordOf cfg f w j := by
  unfold decode at h
  split at h
  · cases h
  next hfits =>
  have hlt := Nat.lt_of_not_le hfits
  cases f with
  | cmd32 => exact ⟨_, .command w⟩
  | rsp32 =>
    dsimp only at h
    split at h
    · cases h
    next hupper =>
    rw [eq_setWidth_of_upperHalf_zero (Classical.not_not.mp hupper)]
    exact ⟨_, .response _⟩
  | status8 =>
    obtain ⟨b, rfl⟩ := exists_setWidth_of_lt (n := 8) hlt
    dsimp only [decodeStatus] at h
    split at h
    · cases h
    next hzero =>
    split at h
    · cases h
    next hk =>
    rw [← statusWord_of_fields b ((Bool.not_eq_true _).mp hzero)]
    exact ⟨_, .status _ _ _ _ _ _ hk⟩
  | b5 t =>
    obtain ⟨k, rfl⟩ := exists_setWidth_of_lt (n := 5) hlt
    dsimp only at h
    rw [setWidth_extractLsb'_self (by decide)] at h
    exact ⟨_, .code t k i h⟩
  | sym8 =>
    obtain ⟨b, rfl⟩ := exists_setWidth_of_lt (n := 8) hlt
    dsimp only [decodeSym] at h
    split at h
    · cases h
    next hstart =>
    split at h
    · cases h
    next hstop =>
    rw [← symWord_of_fields b ((Bool.not_eq_true _).mp hstart) (Classical.not_not.mp hstop)]
    exact ⟨_, .symbol _⟩
  | dac16 =>
    obtain ⟨v, rfl⟩ := exists_setWidth_of_lt (n := 16) hlt
    dsimp only [decodeDac] at h
    split at h
    · cases h
    next hcfg =>
    split at h
    · cases h
    next hpad =>
    rw [← dacFrame_of_fields (Classical.not_not.mp hcfg) (Classical.not_not.mp hpad)]
    exact ⟨_, .converterFrame _⟩
  | mem32 =>
    dsimp only at h
    split at h
    · next hw =>
      rw [hw]
      exact ⟨_, .header⟩
    · cases h
  | memByte =>
    obtain ⟨b, rfl⟩ := exists_setWidth_of_lt (n := 8) hlt
    exact ⟨_, .streamed b⟩

/-- The decoder takes exactly the words of a format, each for its unit. -/
theorem decode_eq_ok_iff {cfg : Config} {f : Format} {w : BitVec 32} {i : Instr} :
    decode cfg f w = .ok i ↔ WordOf cfg f w i := by
  refine ⟨fun h => ?_, decode_of_wordOf⟩
  obtain ⟨j, hj⟩ := exists_wordOf h
  have hij : i = j := Except.ok.inj (h.symm.trans (decode_of_wordOf hj))
  exact hij ▸ hj

/-! The rows of framed symbols (41_bitstream_framer.md R143, R144). -/

/-- CR and LF have different codes. -/
theorem entryCode_lf_ne_cr {cfg : Config} (h : tablesLawful cfg = true) :
    entryCode cfg .letters 0x0A ≠ entryCode cfg .letters 0x0D := by
  intro heq
  have ht := (tablesLawful_spec h).1 .letters
  have hcr := (lookup_eq_some_iff ht).mp (lookup_shared_eq_entryCode h (c := 0x0D) (by decide) .letters)
  have hlf := (lookup_eq_some_iff ht).mp (lookup_shared_eq_entryCode h (c := 0x0A) (by decide) .letters)
  rw [heq, hcr] at hlf
  exact absurd hlf (by decide)

/-- With lawful tables the rows of a symbol are told apart by four codes. -/
theorem symRow_lawful {cfg : Config} (h : tablesLawful cfg = true) (k : Code) :
    symRow cfg k = if k = entryCode cfg .letters 0x0D then .symCr
      else if k = entryCode cfg .letters 0x0A then .symLf
      else if k = cfg.codeLtrs then .symLtrs
      else if k = cfg.codeFigs then .symFigs
      else .sym k := by
  have hcr := lookup_shared_eq_entryCode h (c := 0x0D) (by decide) .letters
  have hlf := lookup_shared_eq_entryCode h (c := 0x0A) (by decide) .letters
  simp only [symRow, hcr, hlf, Option.some.injEq]

theorem wellFormed_sym_iff {cfg : Config} (h : tablesLawful cfg = true) (k : Code) :
    (Instr.sym k).wellFormed cfg = true ↔ k ≠ entryCode cfg .letters 0x0D ∧ k ≠ entryCode cfg .letters 0x0A
      ∧ k ≠ cfg.codeLtrs ∧ k ≠ cfg.codeFigs := by
  have hcr := lookup_shared_eq_entryCode h (c := 0x0D) (by decide) .letters
  have hlf := lookup_shared_eq_entryCode h (c := 0x0A) (by decide) .letters
  simp only [Instr.wellFormed, hcr, hlf, Bool.and_eq_true, decide_eq_true_eq, ne_eq, Option.some.injEq, and_assoc]

/-- The row of each of the four fixed symbols' codes. -/
theorem symRow_fixed {cfg : Config} (h : tablesLawful cfg = true) :
    symRow cfg (entryCode cfg .letters 0x0D) = .symCr ∧ symRow cfg (entryCode cfg .letters 0x0A) = .symLf
      ∧ symRow cfg cfg.codeLtrs = .symLtrs ∧ symRow cfg cfg.codeFigs = .symFigs := by
  obtain ⟨htable, -, -, hne⟩ := tablesLawful_spec h
  obtain ⟨hcrLtrs, hcrFigs⟩ :=
    lookup_ne_shiftCodes (htable _) (lookup_shared_eq_entryCode h (c := 0x0D) (by decide) .letters)
  obtain ⟨hlfLtrs, hlfFigs⟩ :=
    lookup_ne_shiftCodes (htable _) (lookup_shared_eq_entryCode h (c := 0x0A) (by decide) .letters)
  simp only [symRow_lawful h]
  exact ⟨if_pos trivial, by rw [if_neg (entryCode_lf_ne_cr h), if_pos trivial],
    by rw [if_neg hcrLtrs.symm, if_neg hlfLtrs.symm, if_pos trivial],
    by rw [if_neg hcrFigs.symm, if_neg hlfFigs.symm, if_neg hne.symm, if_pos trivial]⟩

/-- A framed symbol's row is well formed, and its word is the symbol's. -/
theorem symRow_spec {cfg : Config} (h : tablesLawful cfg = true) (k : Code) :
    (symRow cfg k).wellFormed cfg = true ∧ encode cfg (symRow cfg k) = symWord k := by
  rw [symRow_lawful h]
  split
  · next hk => exact ⟨rfl, by rw [hk, encode]⟩
  split
  · next hk => exact ⟨rfl, by rw [hk, encode]⟩
  split
  · next hk => exact ⟨rfl, by rw [hk, encode]⟩
  split
  · next hk => exact ⟨rfl, by rw [hk, encode]⟩
  · next hcr hlf hltrs hfigs => exact ⟨(wellFormed_sym_iff h k).mpr ⟨hcr, hlf, hltrs, hfigs⟩, rfl⟩

theorem symRow_of_wellFormed {cfg : Config} (h : tablesLawful cfg = true) {k : Code}
    (hwf : (Instr.sym k).wellFormed cfg = true) : symRow cfg k = .sym k := by
  obtain ⟨hcr, hlf, hltrs, hfigs⟩ := (wellFormed_sym_iff h k).mp hwf
  rw [symRow_lawful h, if_neg hcr, if_neg hlf, if_neg hltrs, if_neg hfigs]

theorem wordOf_symRow {cfg : Config} (h : tablesLawful cfg = true) (k : Code) :
    WordOf cfg .sym8 (encode cfg (symRow cfg k)) (symRow cfg k) := by
  rw [(symRow_spec h k).2]
  exact .symbol k

/-! Units and their words. -/

/-- The encoded word of a well-formed unit is its word. -/
theorem wordOf_encode {cfg : Config} (h : tablesLawful cfg = true) {i : Instr} (hwf : i.wellFormed cfg = true) :
    WordOf cfg i.format (encode cfg i) i := by
  obtain ⟨hcr, hlf, hltrs, hfigs⟩ := symRow_fixed h
  cases hf : i.format with
  | cmd32 =>
    have hword := WordOf.command (cfg := cfg) (encode cfg i)
    rwa [decodeCmd_encode cfg hf] at hword
  | rsp32 =>
    cases i <;> cases hf
    exact .response _
  | status8 =>
    cases i <;> cases hf
    exact .status _ _ _ _ _ _ (by simpa [Instr.wellFormed] using hwf)
  | sym8 =>
    cases i <;> cases hf
    case sym.refl k => exact symRow_of_wellFormed h hwf ▸ wordOf_symRow h k
    case symCr.refl => exact hcr ▸ wordOf_symRow h (entryCode cfg .letters 0x0D)
    case symLf.refl => exact hlf ▸ wordOf_symRow h (entryCode cfg .letters 0x0A)
    case symLtrs.refl => exact hltrs ▸ wordOf_symRow h cfg.codeLtrs
    case symFigs.refl => exact hfigs ▸ wordOf_symRow h cfg.codeFigs
  | dac16 =>
    cases i <;> cases hf
    exact .converterFrame _
  | mem32 =>
    cases i <;> cases hf
    exact .header
  | memByte =>
    cases i <;> cases hf
    exact .streamed _
  | b5 t =>
    by_cases hl : i = .codeLtrs
    · subst hl
      exact .code t _ _ ((decodeCode_eq_ok_iff h).mpr (.inl ⟨rfl, rfl⟩))
    by_cases hg : i = .codeFigs
    · subst hg
      exact .code t _ _ ((decodeCode_eq_ok_iff h).mpr (.inr (.inl ⟨rfl, rfl⟩)))
    obtain ⟨c, hrow⟩ := exists_codeRow hf hl hg
    rw [hrow.encode_eq]
    have hcode := lookup_eq_entryCode ((hrow.wellFormed_eq cfg).symm.trans hwf)
    exact .code t _ _ ((decodeCode_eq_ok_iff h).mpr (.inr (.inr ⟨c, hcode, hrow⟩)))

/-- A word's unit is well formed, and outside CMD32 has that word alone. -/
theorem encode_of_wordOf {cfg : Config} (h : tablesLawful cfg = true) {f : Format} {w : BitVec 32} {i : Instr}
    (hw : WordOf cfg f w i) : i.wellFormed cfg = true ∧ (f ≠ .cmd32 → encode cfg i = w) := by
  cases hw with
  | command => exact ⟨wellFormed_of_command cfg (decodeCmd_format w), fun hf => absurd rfl hf⟩
  | response v => exact ⟨rfl, fun _ => rfl⟩
  | status d a p e sh k hk => exact ⟨by simpa [Instr.wellFormed] using hk, fun _ => rfl⟩
  | code t k i hcode =>
    rcases (decodeCode_eq_ok_iff h).mp hcode with ⟨rfl, rfl⟩ | ⟨rfl, rfl⟩ | ⟨c, hlook, hrow⟩
    · exact ⟨rfl, fun _ => rfl⟩
    · exact ⟨rfl, fun _ => rfl⟩
    · rw [hrow.wellFormed_eq, hrow.encode_eq]
      exact ⟨by simp [assigned, hlook], fun _ => by simp [entryWord, entryCode, hlook]⟩
  | symbol k =>
    obtain ⟨hwf, hword⟩ := symRow_spec h k
    exact ⟨hwf, fun _ => hword⟩
  | converterFrame x => exact ⟨rfl, fun _ => rfl⟩
  | header => exact ⟨rfl, fun _ => rfl⟩
  | streamed b => exact ⟨rfl, fun _ => rfl⟩

/-- Settles O10: the encoded word is the unit's word, and the decoder takes it for that unit. -/
theorem decodeOfEncodeIsTheUnit : Obligations.DecodeOfEncodeIsTheUnit := by
  unfold Obligations.DecodeOfEncodeIsTheUnit
  intro cfg i h hwf
  exact decode_eq_ok_iff.mpr (wordOf_encode h hwf)

/-- Settles O11: outside CMD32 the unit has one word; in CMD32 its encoding is a word of its own row. -/
theorem decodedUnitsEncodeBack : Obligations.DecodedUnitsEncodeBack := by
  unfold Obligations.DecodedUnitsEncodeBack
  intro cfg f w i h hdec
  obtain ⟨hwf, hword⟩ := encode_of_wordOf h (decode_eq_ok_iff.mp hdec)
  refine ⟨hwf, ?_, hword⟩
  by_cases hf : f = .cmd32
  · subst hf
    have hformat : i.format = .cmd32 := by
      rw [decode_cmd32] at hdec
      exact Except.ok.inj hdec ▸ decodeCmd_format w
    exact hformat ▸ decodeOfEncodeIsTheUnit cfg i h hwf
  · rw [hword hf, hdec]

end Sys2Proof.Proofs
end

section
/-! PROOFS. The rows of a bench's framer (spec/41_bitstream_framer.md R143 to R146; logs 1, 14, 18, 23): each appends a list of
codes to the bench's plan, as far as they fit. -/

namespace Sys2Proof.Proofs
open Sys2Proof.Machine

/-! A plan with codes appended. -/

theorem framedBits_singleton (k : Code) : framedBits [k] = frame k := List.append_nil _

theorem framedBits_pair (k k' : Code) : framedBits [k, k'] = frame k ++ frame k' := by
  rw [framedBits_cons, framedBits_singleton]

/-- `g` is `f` with the frames of `ks` behind its plan and the shift state `t`. -/
structure Appended (ks : List Code) (t : Shift) (f g : Framer) : Prop where
  bits_eq : g.bits = f.bits ++ framedBits ks
  planLen_eq : g.planLen = f.planLen + BitVec.ofNat 13 (8 * ks.length)
  shift_eq : g.shift = t
  read_eq : ∀ a, (a < f.planLen.toNat ∨ f.planLen.toNat + 8 * ks.length ≤ a) →
    Memory.read g.plan a = Memory.read f.plan a

theorem appended_of_fits {cfg : Config} (hc : cfg.planMax < 8192) {ks : List Code} (t : Shift) {f : Framer}
    (h : f.planLen.toNat + 8 * ks.length ≤ cfg.planMax) : Appended ks t f { appendSyms cfg ks f with shift := t } := by
  obtain ⟨hbits, hlen, hread⟩ := appendSyms_fits hc ks h
  refine ⟨hbits, BitVec.eq_of_toNat_eq (hlen.trans ?_), rfl, hread⟩
  rw [BitVec.toNat_add, BitVec.toNat_ofNat]
  omega

/-- In a plan with no room for one symbol every code is dropped. -/
theorem appendSyms_full {cfg : Config} (ks : List Code) {f : Framer} (h : cfg.planMax < f.planLen.toNat + 8) :
    appendSyms cfg ks f = f := by
  induction ks with
  | nil => rfl
  | cons k ks ih =>
    show appendSyms cfg ks (appendSym cfg k f) = f
    rw [appendSym_full k h, ih]

/-- In a plan with room for one symbol alone the first code is kept and the second dropped. -/
theorem appendSyms_pair_full {cfg : Config} (hc : cfg.planMax < 8192) (k k' : Code) {f : Framer}
    (hfits : f.planLen.toNat + 8 ≤ cfg.planMax) (hfull : cfg.planMax < f.planLen.toNat + 16) :
    appendSyms cfg [k, k'] f = appendSyms cfg [k] f := by
  have hfull' : cfg.planMax < (appendSym cfg k f).planLen.toNat + 8 := by
    rw [appendSym_planLen_toNat hc k hfits]
    exact hfull
  exact appendSym_full k' hfull'

/-! The rows of framed symbols (R143, R144, R146). -/

theorem putPreamble_lawful {cfg : Config} (h : tablesLawful cfg = true) {c : Byte} (hc : c ∈ sharedChars) (f : Framer) :
    putPreamble cfg c f = appendSym cfg (entryCode cfg .letters c) f := by
  rw [putPreamble_spec, lookup_shared_eq_entryCode h hc]
  rfl

/-- Each framed-symbol row appends its code to the bench's plan. -/
theorem exec_symbolRow {s : State} (h : tablesLawful s.cfg = true) (k : Code) :
    ∀ p ∈ [(Instr.sym k, k), (.symCr, entryCode s.cfg .letters 0x0D), (.symLf, entryCode s.cfg .letters 0x0A),
        (.symLtrs, s.cfg.codeLtrs), (.symFigs, s.cfg.codeFigs)],
      exec p.1 s = .next { s with bench := { s.bench with framer := appendSym s.cfg p.2 s.bench.framer } } := by
  intro p hp
  simp only [List.mem_cons, List.not_mem_nil, or_false] at hp
  rcases hp with rfl | rfl | rfl | rfl | rfl
  · rfl
  · rw [← putPreamble_lawful h (by decide)]
    rfl
  · rw [← putPreamble_lawful h (by decide)]
    rfl
  · rfl
  · rfl

/-- Settles O29: every row appends one code, which fits or is dropped. -/
theorem symbolRowsAppendTheirFrame : Obligations.SymbolRowsAppendTheirFrame := by
  unfold Obligations.SymbolRowsAppendTheirFrame
  refine ⟨by decide, by decide, rfl, rfl, fun k s hlawful p hp => ⟨fun hfull => ?full, fun hfits => ?fits⟩⟩
  all_goals
    obtain ⟨-, -, -, hc, -, -, -, htables⟩ := paramsLawful_spec hlawful
    rw [exec_symbolRow htables k p hp]
  case full => rw [appendSym_full p.2 hfull]
  case fits =>
    have happ := appended_of_fits hc (ks := [p.2]) s.bench.framer.shift hfits
    exact ⟨_, rfl, appendSym_bits hc p.2 hfits, happ.planLen_eq, appendSym_shift .., happ.read_eq⟩

/-! The rows of the code tables (R145; log 23). -/

/-- A code row's word is its character's code. -/
theorem encode_codeRow {t : Shift} {c : Byte} {i : Instr} (hrow : CodeRow t c i) (cfg : Config) :
    (encode cfg i).setWidth 5 = entryCode cfg t c := by
  rw [hrow.encode_eq, entryWord, BitVec.setWidth_setWidth_of_le _ (by decide), BitVec.setWidth_eq]

/-- A code row appends the codes of its character and leaves the shift state after them. -/
theorem exec_codeRow {t : Shift} {c : Byte} {i : Instr} (hrow : CodeRow t c i) {s : State} {ks : List Code} {u : Shift}
    (hcodes : charCodes s.cfg s.bench.framer.shift c = (ks, u)) :
    exec i s = .next { s with
      bench := { s.bench with framer := { appendSyms s.cfg ks s.bench.framer with shift := u } } } := by
  rw [hrow.exec_eq]
  show Host.Outcome.next { s with bench := { s.bench with framer := putChar s.cfg c s.bench.framer } } = _
  rw [putChar_spec, hcodes]

/-- A character of the active table costs its own code. -/
theorem charCodes_active {cfg : Config} {t : Shift} {c : Byte} (h : assigned cfg t c = true) :
    charCodes cfg t c = ([entryCode cfg t c], t) := by
  simp [charCodes, lookup_eq_entryCode h]

/-- A shared character costs its own code in either table. -/
theorem charCodes_shared {cfg : Config} (h : tablesLawful cfg = true) {c : Byte} (hc : c ∈ sharedChars) (t u : Shift) :
    charCodes cfg u c = ([entryCode cfg t c], u) := by
  have hcode : entryCode cfg u c = entryCode cfg t c := by rw [entryCode, entryCode, lookup_shared h hc u t]
  rw [charCodes_active (((tablesLawful_spec h).1 u).shared c hc), hcode]

theorem other_other (t : Shift) : t.other.other = t := by
  cases t <;> rfl

/-- Any other character costs a shift code first where its own table is not active. -/
theorem charCodes_other {cfg : Config} (h : tablesLawful cfg = true) {t : Shift} {c : Byte} (hc : c ∉ sharedChars)
    (ha : assigned cfg t c = true) : charCodes cfg t.other c = ([shiftCode cfg t, entryCode cfg t c], t) := by
  have hcode := lookup_eq_entryCode ha
  have hnone : lookup cfg c t.other = none :=
    Option.eq_none_iff_forall_not_mem.mpr fun k hk => hc (mem_sharedChars_of_lookup_both h hcode hk)
  simp [charCodes, hnone, other_other, hcode]

/-- Settles O30: with its table active a row costs its own code. -/
theorem codeRowsInTheActiveTable : Obligations.CodeRowsInTheActiveTable := by
  unfold Obligations.CodeRowsInTheActiveTable
  intro i t s hlawful hwf hformat hltrs hfigs f hactive hfits
  obtain ⟨-, -, -, hc, -⟩ := paramsLawful_spec hlawful
  obtain ⟨c, hrow⟩ := exists_codeRow hformat hltrs hfigs
  have hcodes := charCodes_active ((hrow.wellFormed_eq s.cfg).symm.trans hwf)
  have happ := appended_of_fits hc (ks := [entryCode s.cfg t c]) t hfits
  rw [encode_codeRow hrow, hactive]
  exact ⟨_, exec_codeRow hrow (hactive ▸ hcodes), framedBits_singleton _ ▸ happ.bits_eq, happ.planLen_eq, rfl,
    happ.read_eq⟩

/-- Settles O31: with the other table active a shared row costs its own code, any other row a shift code too. -/
theorem codeRowsInTheOtherTable : Obligations.CodeRowsInTheOtherTable := by
  unfold Obligations.CodeRowsInTheOtherTable
  intro i t s hlawful hwf hformat hltrs hfigs f hother
  obtain ⟨-, -, -, hc, -, -, -, htables⟩ := paramsLawful_spec hlawful
  obtain ⟨c, hrow⟩ := exists_codeRow hformat hltrs hfigs
  rw [encode_codeRow hrow, hother]
  split
  · next hshared =>
    intro hfits
    have hcodes := charCodes_shared htables (hrow.shared_iff.mp hshared) t t.other
    have happ := appended_of_fits hc (ks := [entryCode s.cfg t c]) t.other hfits
    exact ⟨_, exec_codeRow hrow (hother ▸ hcodes), framedBits_singleton _ ▸ happ.bits_eq, happ.planLen_eq, rfl,
      happ.read_eq⟩
  · next hnotShared =>
    intro hfits
    have hcodes := charCodes_other htables (fun hmem => hnotShared (hrow.shared_iff.mpr hmem))
      ((hrow.wellFormed_eq s.cfg).symm.trans hwf)
    have happ := appended_of_fits hc (ks := [shiftCode s.cfg t, entryCode s.cfg t c]) t hfits
    have hbits := happ.bits_eq
    rw [framedBits_pair, ← List.append_assoc] at hbits
    exact ⟨_, exec_codeRow hrow (hother ▸ hcodes), hbits, happ.planLen_eq, rfl, happ.read_eq⟩

/-! The shift codes' rows (R124; log 18). -/

theorem exec_codeLtrs (s : State) :
    exec .codeLtrs s = .next { s with bench := { s.bench with framer := putShift s.cfg .letters s.bench.framer } } := rfl

theorem exec_codeFigs (s : State) :
    exec .codeFigs s = .next { s with bench := { s.bench with framer := putShift s.cfg .figures s.bench.framer } } := rfl

theorem putShift_spec (cfg : Config) (t : Shift) (f : Framer) :
    putShift cfg t f = { appendSyms cfg [shiftCode cfg t] f with shift := t } :=
  appendSym_withShift cfg (shiftCode cfg t) t f

/-- Settles O33: the row appends its shift code and sets the shift state. -/
theorem shiftCodeRowsSwitchTheTable : Obligations.ShiftCodeRowsSwitchTheTable := by
  unfold Obligations.ShiftCodeRowsSwitchTheTable
  intro s hlawful f hfits p hp
  obtain ⟨-, -, -, hc, -⟩ := paramsLawful_spec hlawful
  have happ (t : Shift) : Appended [shiftCode s.cfg t] t f (putShift s.cfg t f) := by
    rw [putShift_spec]
    exact appended_of_fits hc t hfits
  have hbits (t : Shift) : (putShift s.cfg t f).bits = f.bits ++ frame (shiftCode s.cfg t) := by
    rw [(happ t).bits_eq, framedBits_singleton]
  simp only [List.mem_cons, List.not_mem_nil, or_false] at hp
  rcases hp with rfl | rfl
  · exact ⟨_, exec_codeLtrs s, hbits .letters, (happ .letters).planLen_eq, (happ .letters).shift_eq, (happ .letters).read_eq⟩
  · exact ⟨_, exec_codeFigs s, hbits .figures, (happ .figures).planLen_eq, (happ .figures).shift_eq, (happ .figures).read_eq⟩

/-- Settles O32: the codes of O30, O31 and O33 again, with room for none of them or for the shift code alone. -/
theorem codeRowsPastTheEndOfThePlan : Obligations.CodeRowsPastTheEndOfThePlan := by
  unfold Obligations.CodeRowsPastTheEndOfThePlan
  constructor
  · intro i t s hlawful hwf hformat hltrs hfigs f
    obtain ⟨-, -, -, hc, -, -, -, htables⟩ := paramsLawful_spec hlawful
    obtain ⟨c, hrow⟩ := exists_codeRow hformat hltrs hfigs
    have hassigned := (hrow.wellFormed_eq s.cfg).symm.trans hwf
    refine ⟨fun hfull hactive => ?active, fun hfull hother => ?other, fun hfits hfull hother hnotShared => ?oneFits⟩
    case active =>
      rw [exec_codeRow hrow (hactive ▸ charCodes_active hassigned), appendSyms_full _ hfull]
    case other =>
      split
      · next hshared =>
        have hcodes := charCodes_shared htables (hrow.shared_iff.mp hshared) t t.other
        rw [exec_codeRow hrow (hother ▸ hcodes), appendSyms_full _ hfull]
      · next hnotShared =>
        have hcodes := charCodes_other htables (fun hmem => hnotShared (hrow.shared_iff.mpr hmem)) hassigned
        rw [exec_codeRow hrow (hother ▸ hcodes), appendSyms_full _ hfull]
    case oneFits =>
      have hcodes := charCodes_other htables (fun hmem => hnotShared (hrow.shared_iff.mpr hmem)) hassigned
      have happ := appended_of_fits hc (ks := [shiftCode s.cfg t]) t hfits
      rw [exec_codeRow hrow (hother ▸ hcodes), appendSyms_pair_full hc _ _ hfits hfull]
      exact ⟨_, rfl, framedBits_singleton _ ▸ happ.bits_eq, happ.planLen_eq, rfl, happ.read_eq⟩
  · intro s hfull
    rw [exec_codeLtrs, exec_codeFigs, putShift_spec, putShift_spec, appendSyms_full _ hfull, appendSyms_full _ hfull]
    exact ⟨rfl, rfl⟩

/-! Converter frames, the memory header, responses, and reads of STATUS (logs 1, 20). -/

/-- Settles O27: each meaning is one event on the bench's buses, or nothing. -/
theorem busUnitsAreSentOnTheBench : Obligations.BusUnitsAreSentOnTheBench := by
  unfold Obligations.BusUnitsAreSentOnTheBench
  intro s
  exact ⟨fun _ => rfl, fun _ _ _ _ _ _ => rfl, fun _ => rfl, rfl⟩

end Sys2Proof.Proofs
end

section
/-! PROOFS. The step (spec/00_scope.md R10, 45_host_commands.md R220, 60_exceptions.md R257): which unit it runs, when it is the
block's own, what it leaves of the parameters and the memory, and its cases said once. -/

namespace Sys2Proof.Proofs
open Sys2Proof.Machine

/-! Every unit (R250). -/

theorem exec_total (i : Instr) (s : State) : ∃ t, exec i s = .next t := by
  cases i <;> exact ⟨_, rfl⟩

/-- A playback tick either goes on or ends the playback; both ways it writes the playback's registers, the link and the
trace alone. -/
theorem pbTick_record (b : Byte) (s : State) :
    pbTick b s = { s with
      curSample := (pbTick b s).curSample, sentCnt := (pbTick b s).sentCnt, xpos := s.xpos + 1
      memCs := (pbTick b s).memCs, pbEn := (pbTick b s).pbEn, pbActive := (pbTick b s).pbActive
      pbDone := (pbTick b s).pbDone, trace := (pbTick b s).trace } := by
  rcases Nat.lt_or_ge (sentAfter s.cfg b s.sentCnt) s.cfg.sentThresh with hruns | hends
  · rw [pbTick_runs hruns]
  · rw [pbTick_ends hends]

/-- SEND writes ARB, the plan, SHIFT and the sequencer's registers alone. -/
theorem sendAccept_record (s : State) :
    sendAccept s = { s with
      arb := .rttyActive, shift := (sendAccept s).shift, plan := (sendAccept s).plan, planLen := (sendAccept s).planLen
      planPos := 0, incHigh := phaseInc s.cfg s.highHz, incLow := phaseInc s.cfg s.lowHz
      holdTicks := holdTicksOf s.cfg s.baudC, holdCnt := holdTicksOf s.cfg s.baudC, inc := (sendAccept s).inc } := rfl

theorem msgPut_record (c : Byte) (s : State) :
    msgPut c s = { s with msg := (msgPut c s).msg, msgLen := (msgPut c s).msgLen } := by
  rcases Nat.lt_or_ge s.msgLen.toNat s.cfg.msgMax with hroom | hfull
  · rw [msgPut_room c hroom]
  · rw [msgPut_full c hfull]

/-- No instruction writes the accumulator, the parameters, the supplied memory or the stimuli. -/
theorem effect_frame {i : Instr} {s t : State} (h : Effect i s t) :
    t.acc = s.acc ∧ t.cfg = s.cfg ∧ t.xmem = s.xmem ∧ t.xmemTail = s.xmemTail ∧ t.stimuli = s.stimuli := by
  cases h with
  | put idle c => rw [msgPut_record]; exact ⟨rfl, rfl, rfl, rfl, rfl⟩
  | tick b => rw [pbTick_record]; exact ⟨rfl, rfl, rfl, rfl, rfl⟩
  | same => exact ⟨rfl, rfl, rfl, rfl, rfl⟩
  | cleared => exact ⟨rfl, rfl, rfl, rfl, rfl⟩
  | sent => exact ⟨rfl, rfl, rfl, rfl, rfl⟩
  | played => exact ⟨rfl, rfl, rfl, rfl, rfl⟩
  | tone => exact ⟨rfl, rfl, rfl, rfl, rfl⟩
  | response => exact ⟨rfl, rfl, rfl, rfl, rfl⟩
  | benched => exact ⟨rfl, rfl, rfl, rfl, rfl⟩

/-- Settles O14: no meaning stops, and none of the effects writes ACC. -/
theorem everyInstructionCompletes : Obligations.EveryInstructionCompletes := by
  unfold Obligations.EveryInstructionCompletes
  intro i s
  obtain ⟨t, ht⟩ := exec_total i s
  exact ⟨t, ht, (effect_frame (exec_effect ht)).1⟩

/-- Settles O17: every command is an operation of the main sequence or has no effect at all. -/
theorem busyBlockTakesNoCommand : Obligations.BusyBlockTakesNoCommand := by
  unfold Obligations.BusyBlockTakesNoCommand
  intro i s hbusy hcommand
  obtain ⟨t, ht⟩ := exec_total i s
  rw [ht]
  cases exec_effect ht with
  | same => rfl
  | benched notCommand => exact absurd hcommand notCommand
  | tick b isMembyte => subst isMembyte; cases hcommand
  | cleared idle => exact absurd idle hbusy
  | put idle => exact absurd idle hbusy
  | sent idle => exact absurd idle hbusy
  | played idle => exact absurd idle hbusy
  | tone idle => exact absurd idle hbusy
  | response idle => exact absurd idle hbusy

/-! The playback tick as an instruction (R181, R190). -/

theorem exec_membyte_enabled (b : Byte) {s : State} (h : s.pbEn = true) : exec (.membyte b) s = .next (pbTick b s) := by
  show Host.Outcome.next (if s.pbEn then pbTick b s else s) = _
  rw [h, if_pos rfl]

theorem exec_membyte_disabled (b : Byte) {s : State} (h : s.pbEn = false) : exec (.membyte b) s = .next s := by
  show Host.Outcome.next (if s.pbEn then pbTick b s else s) = _
  rw [h, if_neg Bool.false_ne_true]

/-- Settles O28: a byte other than the sentinel ends no run; the sentinel lengthens the run, which ends at SENT_THRESH. -/
theorem streamedByteIsOnePlaybackTick : Obligations.StreamedByteIsOnePlaybackTick := by
  unfold Obligations.StreamedByteIsOnePlaybackTick
  intro b s hlawful
  obtain ⟨-, -, hthresh, -, -, hsentinel, -⟩ := paramsLawful_spec hlawful
  refine ⟨exec_membyte_disabled b, fun hen hb => ?other, fun hen hb hshort => ?short, fun hen hb hlong => ?long⟩
  case other =>
    have hcount : sentAfter s.cfg b s.sentCnt = 0 := by rw [sentAfter, hsentinel, if_neg hb]
    rw [exec_membyte_enabled b hen, pbTick_runs (by omega), hcount]
    rfl
  all_goals
    subst hb
    have hcount : sentAfter s.cfg 0xFF s.sentCnt = s.sentCnt + 1 := by rw [sentAfter, hsentinel, if_pos rfl]
  case short =>
    rw [exec_membyte_enabled _ hen, pbTick_runs (by omega), hcount]
    rfl
  case long =>
    rw [exec_membyte_enabled _ hen, pbTick_ends (by omega)]
    rfl

/-! The unit on its port (R220). -/

theorem runUnit_ok {f : Format} {w : BitVec 32} {s : State} {i : Instr} (h : decode s.cfg f w = .ok i) :
    runUnit f w s = exec i s := by
  rw [runUnit, h]

/-- A unit the block can take is run in this step. -/
theorem stepOn_ready {mem : Nat → Byte} {s : State} {f : Format} {w : BitVec 32} {r : List Stimulus} {i : Instr}
    (h : s.stimuli = .unit f w :: r) (henabled : bothEnabled s = false) (hready : ready f s = true)
    (hdec : decode s.cfg f w = .ok i) : stepOn mem s = exec i { s with stimuli := r, rspPort := none } := by
  rw [stepOn_unit h, henabled, hready, if_neg Bool.false_ne_true, if_pos rfl]
  exact runUnit_ok hdec

/-- A unit the block cannot take stays on its port in the block's own step. -/
theorem stepOn_waiting {mem : Nat → Byte} {s : State} {f : Format} {w : BitVec 32} {r : List Stimulus}
    (h : s.stimuli = .unit f w :: r) (henabled : bothEnabled s = false) (hready : ready f s = false) :
    stepOn mem s = ownStep mem { s with rspPort := none } := by
  rw [stepOn_unit h, henabled, hready, if_neg Bool.false_ne_true, if_neg Bool.false_ne_true]
  rfl

/-- Settles O5: `step` is `stepOn` with the memory the state describes. -/
theorem stepRunsTheUnitOnThePort : Obligations.StepRunsTheUnitOnThePort := by
  unfold Obligations.StepRunsTheUnitOnThePort
  intro s f w r i h hsources hready hdec
  exact stepOn_ready h ((bothEnabled_eq_false_iff s).mpr hsources) hready hdec

/-- The units that wait: a command in a busy block, a streamed byte with no playback tick. -/
theorem ready_eq_false_iff (f : Format) (s : State) :
    ready f s = false ↔ (f = .cmd32 ∧ s.arb ≠ .idle) ∨ (f = .memByte ∧ s.pbEn = false) := by
  cases f <;> simp [ready, State.cmdReady]

/-- Settles O8: a waiting unit leaves the step to the block's own agents, which write no stimuli. -/
theorem waitingUnitsStayOnThePort : Obligations.WaitingUnitsStayOnThePort := by
  unfold Obligations.WaitingUnitsStayOnThePort
  refine ⟨ready_eq_false_iff, fun s f w r h hready hsources => ?waits, fun s h => stepOn_nil h,
    fun s r h => stepOn_quiet h⟩
  have hstep : step s = ownStep s.xmemByte { s with rspPort := none } :=
    stepOn_waiting h ((bothEnabled_eq_false_iff s).mpr hsources) hready
  obtain ⟨t, ht⟩ := ownStep_total (mem := s.xmemByte) (s := { s with rspPort := none }) hsources
  have hstimuli := ownStep_stimuli ht
  exact ⟨hstep, t, hstep.trans ht, hstimuli⟩

/-! The block's own playback tick. -/

theorem ownStep_eq_membyte (mem : Nat → Byte) {s : State} (hpb : s.pbEn = true) (hdds : s.ddsEn = false)
    (harb : s.arb = .playbackActive) (hdone : s.pbDone = false) : ownStep mem s = exec (.membyte (mem s.xpos)) s := by
  simp [ownStep, bothEnabled, hpb, hdds, harb, hdone]

/-- Settles O6: in a playback the enabled source is the streamer. -/
theorem stepRunsTheStreamedByte : Obligations.StepRunsTheStreamedByte := by
  unfold Obligations.StepRunsTheStreamedByte
  intro s hstimuli hpb hdds harb hdone
  exact (stepOn_nil hstimuli).trans (ownStep_eq_membyte s.xmemByte (s := { s with rspPort := none }) hpb hdds harb hdone)

/-! Words placed by `withFetchWord` (logs 3, 4). -/

theorem decodeCode_format {cfg : Config} {t : Shift} {k : Code} {i : Instr} (h : decodeCode cfg t k = .ok i) :
    ∃ u, i.format = .b5 u := by
  unfold decodeCode at h
  split at h
  · exact ⟨_, (congrArg Instr.format (Except.ok.inj h)).symm⟩
  split at h
  · exact ⟨_, (congrArg Instr.format (Except.ok.inj h)).symm⟩
  split at h
  · cases h
  next c _ =>
  split at h
  · cases h
  next j hrow =>
  cases h
  exact ⟨t, (codeRow_of_entryRow hrow).format_eq⟩

/-- A word's unit has the word's own format; only a shift code, which stands in both tables, can have the other table's. -/
theorem format_of_wordOf {cfg : Config} {f : Format} {w : BitVec 32} {i : Instr} (h : WordOf cfg f w i) :
    i.format = f ∨ ∃ t u, f = .b5 t ∧ i.format = .b5 u := by
  cases h with
  | command => exact .inl (decodeCmd_format w)
  | code t k i hcode =>
    obtain ⟨u, hu⟩ := decodeCode_format hcode
    exact .inr ⟨t, u, rfl, hu⟩
  | symbol k =>
    refine .inl ?_
    unfold symRow
    split
    · rfl
    split
    · rfl
    split
    · rfl
    split <;> rfl
  | response => exact .inl rfl
  | status => exact .inl rfl
  | converterFrame => exact .inl rfl
  | header => exact .inl rfl
  | streamed => exact .inl rfl

/-- The format a table word is placed in, and what it decodes to there. -/
theorem exists_tableFormat {s : State} {nbits w : Nat} {i : Instr} (h : decodeTableWordOf s.cfg nbits w = some i) :
    ∃ f, decode s.cfg f (BitVec.ofNat 32 w) = .ok i
      ∧ s.withFetchWord nbits w = placeUnit f (BitVec.ofNat 32 w) s := by
  unfold decodeTableWordOf at h
  unfold State.withFetchWord placeWord
  cases hformat : tableFormat s.cfg nbits w with
  | none => simp [hformat] at h
  | some f =>
    simp only [hformat] at h
    refine ⟨f, ?_, rfl⟩
    cases hdec : decode s.cfg f (BitVec.ofNat 32 w) with
    | ok j =>
      rw [hdec] at h
      exact congrArg _ (Option.some.inj h)
    | error e =>
      rw [hdec] at h
      cases h

/-- A unit that is neither a command nor a streamed byte is placed in the state as it is, but for a second source. -/
theorem placeUnit_bench {f : Format} (hcmd : f ≠ .cmd32) (hbyte : f ≠ .memByte) (w : BitVec 32) (s : State) :
    placeUnit f w s = { s with pbEn := s.pbEn && !s.ddsEn, stimuli := .unit f w :: s.stimuli } := by
  cases f with
  | cmd32 => exact absurd rfl hcmd
  | memByte => exact absurd rfl hbyte
  | _ => rfl

theorem placeUnit_memByte_xmemByte (w : BitVec 32) (s : State) :
    (placeUnit .memByte w s).xmemByte s.xpos = w.extractLsb' 0 8 := by
  show (Memory.read (Memory.write s.xmem s.xpos (w.extractLsb' 0 8)) s.xpos).getD _ = _
  rw [Memory.read_write_same, Option.getD_some]

/-- Settles O7: each kind of word is placed where the step takes it at once. -/
theorem placedWordsRunNext : Obligations.PlacedWordsRunNext := by
  unfold Obligations.PlacedWordsRunNext
  intro s nbits w i hword
  obtain ⟨f, hdec, hplace⟩ := exists_tableFormat hword
  have hof := decode_eq_ok_iff.mp hdec
  have hsame {g : Format} (hg : ∀ t, g ≠ .b5 t) : i.format = g ↔ f = g := by
    rcases format_of_wordOf hof with hf | ⟨t, u, hf, hi⟩
    · rw [hf]
    · rw [hf, hi]
      exact iff_of_false (hg u).symm (hg t).symm
  rw [hplace]
  refine ⟨fun hcommand => ?command, fun b hb => ?byte, fun hnotCommand hnotByte => ?bench⟩
  case command =>
    obtain rfl := (hsame (by nofun)).mp hcommand
    have henabled : bothEnabled (placeUnit .cmd32 (BitVec.ofNat 32 w) s) = false := by simp [bothEnabled, placeUnit]
    exact stepOn_ready (s := placeUnit .cmd32 (BitVec.ofNat 32 w) s) rfl henabled rfl hdec
  case byte =>
    subst hb
    obtain rfl := (hsame (g := .memByte) (by nofun)).mp rfl
    have hb : b = (BitVec.ofNat 32 w).extractLsb' 0 8 := by
      generalize BitVec.ofNat 32 w = v at hof
      cases hof
      exact (setWidth_extractLsb'_self (by decide) b).symm
    have hread := placeUnit_memByte_xmemByte (BitVec.ofNat 32 w) s
    rw [← hb] at hread
    have hstep := stepOn_quiet (mem := (placeUnit .memByte (BitVec.ofNat 32 w) s).xmemByte)
      (s := placeUnit .memByte (BitVec.ofNat 32 w) s) rfl
    refine hstep.trans ((ownStep_eq_membyte _ rfl rfl rfl rfl).trans ?_)
    show exec (.membyte ((placeUnit .memByte (BitVec.ofNat 32 w) s).xmemByte s.xpos)) _ = _
    rw [hread, hb]
    rfl
  case bench =>
    have hcmd : f ≠ .cmd32 := fun hf => hnotCommand ((hsame (by nofun)).mpr hf)
    have hbyte : f ≠ .memByte := fun hf => hnotByte ((hsame (by nofun)).mpr hf)
    have hready (u : State) : ready f u = true := by
      rw [← Bool.not_eq_false, ready_eq_false_iff]
      simp [hcmd, hbyte]
    have henabled : bothEnabled (placeUnit f (BitVec.ofNat 32 w) s) = false := by
      rw [placeUnit_bench hcmd hbyte]
      simp +contextual [bothEnabled]
    rw [placeUnit_bench hcmd hbyte] at henabled ⊢
    exact stepOn_ready (s := { s with pbEn := s.pbEn && !s.ddsEn, stimuli := .unit f (BitVec.ofNat 32 w) :: s.stimuli })
      rfl henabled (hready _) hdec

/-! The cases of a step, said once. -/

/-- The states a reset answers (70_reset_and_hazards.md R281, R282): every register at its reset value, the parameters, the
memory and the bench as they were. -/
inductive Resets (s : State) : State → Prop where
  | mk (stimuli : List Stimulus) (xpos cuts : Nat) (trace : List Event) (cutWave : List BusLines) :
      Resets s { State.resetWith s.cfg with
        xmem := s.xmem, xmemTail := s.xmemTail, bench := s.bench, stimuli := stimuli, xpos := xpos, cuts := cuts
        trace := trace, cutWave := cutWave }

theorem resets_of_stimuli {s t : State} {r : List Stimulus} (h : Resets { s with stimuli := r } t) : Resets s t := by
  cases h
  exact .mk ..

theorem resets_resetCutting (part : List BusLines) (s : State) : Resets s (resetCutting part s) := by
  rw [resetCutting_spec]
  exact .mk ..

theorem resets_resetWithin (done : List Event) (part : List BusLines) (s : State) :
    Resets s (resetWithin done part s) := by
  rw [resetWithin_record]
  exact .mk ..

/-- A cut step is a reset, whatever the step without it would have been. -/
theorem resets_cutStep (mem : Nat → Byte) (n : Nat) (s : State) : Resets s (cutStep mem n s) := by
  unfold cutStep
  split
  · next t _ =>
    exact resets_of_stimuli (resets_resetWithin (cutAt n (eventsBetween s t)).1 (cutAt n (eventsBetween s t)).2 _)
  · exact resets_resetCutting [] s
  · exact resets_resetCutting [] s

/-- What is offered in the coming step is a reset. -/
def resetOffered (s : State) : Prop := s.stimuli.head? = some .rst ∨ ∃ n, s.stimuli.head? = some (.cut n)

/-- Everything a step can be: a reset, an instruction taken from its port, or the block's own step. -/
inductive StepCase (mem : Nat → Byte) (s : State) : State → Prop where
  | reset (t : State) (offered : resetOffered s) (resets : Resets s t) : StepCase mem s t
  | taken (t : State) (f : Format) (w : BitVec 32) (r : List Stimulus) (i : Instr) (offered : s.stimuli = .unit f w :: r)
      (isReady : ready f s = true) (decodes : decode s.cfg f w = .ok i)
      (effect : Effect i { s with stimuli := r, rspPort := none } t) : StepCase mem s t
  | own (t : State) (r : List Stimulus) (result : ownStep mem { s with stimuli := r, rspPort := none } = .next t) :
      StepCase mem s t

theorem stepOn_case {mem : Nat → Byte} {s t : State} (h : stepOn mem s = .next t) : StepCase mem s t := by
  cases hs : s.stimuli with
  | nil =>
    rw [stepOn_nil hs] at h
    exact .own t s.stimuli h
  | cons x r =>
    cases x with
    | quiet =>
      rw [stepOn_quiet hs] at h
      exact .own t r h
    | rst =>
      rw [stepOn_rst hs] at h
      cases h
      exact .reset _ (.inl (by rw [hs]; rfl)) (resets_of_stimuli (resets_resetCutting [] _))
    | cut n =>
      rw [stepOn_cut hs] at h
      cases h
      exact .reset _ (.inr ⟨n, by rw [hs]; rfl⟩) (resets_of_stimuli (resets_cutStep mem n _))
    | unit f w =>
      rw [stepOn_unit hs] at h
      split at h
      · cases h
      split at h
      · next hready =>
        unfold runUnit at h
        split at h
        · next i hdec => exact .taken t f w r i hs hready hdec (exec_effect h)
        · cases h
      · exact .own t s.stimuli h

end Sys2Proof.Proofs
end

section
/-! PROOFS. The whole machine (spec/10_state.md R46, R47; 44_transport_arbiter.md R201): the invariants, kept by every effect
and every step, and what follows for faults, the arbiter, the plan and a playback. -/

namespace Sys2Proof.Proofs
open Sys2Proof.Machine

/-! The invariants, kept by everything a step can do. -/

/-- Settles O53: each invariant is checked on the reset state. -/
theorem invariantsHoldAtReset : Obligations.InvariantsHoldAtReset := by
  unfold Obligations.InvariantsHoldAtReset
  constructor <;> decide

theorem stateInv_resets {s t : State} (h : StateInv s) (hr : Resets s t) : StateInv t := by
  obtain ⟨-, -, hthresh, -, hbaud, -⟩ := paramsLawful_spec h.cfgLawful
  cases hr
  exact {
    cfgLawful := h.cfgLawful
    oneSource := by simp
    pbEnPlays := by simp
    playsNoDds := by simp
    ddsElse := by simp
    silentElse := by simp
    posInPlan := by simp
    holdBound := by simp
    cursorEn := by simp
    sentBelow := hthresh
    baudPos := hbaud
    planOctets := rfl
    planFits := Nat.zero_le _
    msgFits := Nat.zero_le _
    toneInForce := by simp
    playWaits := by simp
    savedSet := by simp
    posAtMost := Nat.le_refl _
    cells := ⟨Memory.wf_nil, Memory.wf_nil⟩ }

/-- While PLAN_POS is within the plan BIT_ADVANCE's increment does not wrap. -/
theorem planPos_succ_toNat {s : State} (h : s.planPos.toNat < s.planLen.toNat) :
    (s.planPos + 1).toNat = s.planPos.toNat + 1 := by
  have hlen := s.planLen.isLt
  exact BitVec.toNat_add_of_lt (show s.planPos.toNat + 1 < 2 ^ 13 by omega)

theorem stateInv_bitAdvance {s : State} (h : StateInv s) (harb : s.arb = .rttyActive) : StateInv (bitAdvance s) := by
  have hin := h.posInPlan harb
  have hpos := planPos_succ_toNat hin
  have hnotPlaying : s.arb ≠ .playbackActive := by simp [harb]
  by_cases hlast : s.planPos + 1 = s.planLen
  · rw [bitAdvance_last hlast]
    exact { h with
      pbEnPlays := fun hpb => absurd (h.pbEnPlays hpb) hnotPlaying
      playsNoDds := nofun
      ddsElse := fun _ => h.ddsElse hnotPlaying
      silentElse := fun _ => rfl
      posInPlan := nofun
      holdBound := nofun
      toneInForce := nofun
      playWaits := nofun
      savedSet := nofun
      posAtMost := (congrArg BitVec.toNat hlast).le }
  · rw [bitAdvance_next hlast]
    have hne : (s.planPos + 1).toNat ≠ s.planLen.toNat := fun heq => hlast (BitVec.eq_of_toNat_eq heq)
    have hlt : (s.planPos + 1).toNat < s.planLen.toNat := by omega
    exact { h with
      silentElse := fun hne => absurd harb hne
      posInPlan := fun _ => hlt
      holdBound := fun _ => Nat.le_refl _
      toneInForce := fun _ => rfl
      posAtMost := Nat.le_of_lt hlt }

theorem stateInv_playComplete {s : State} (h : StateInv s) (harb : s.arb = .playbackActive) (hdone : s.pbDone = true) :
    StateInv (playComplete s) := by
  have hpb : s.pbEn = false := by simpa [hdone] using h.playWaits harb
  exact { h with
    oneSource := fun hboth => by simp [playComplete, hpb] at hboth
    pbEnPlays := fun hen => by simp [playComplete, hpb] at hen
    playsNoDds := nofun
    ddsElse := fun _ => h.savedSet harb
    silentElse := fun _ => h.silentElse (by simp [harb])
    posInPlan := nofun
    holdBound := nofun
    toneInForce := nofun
    playWaits := nofun
    savedSet := nofun }

theorem stateInv_ddsTick {s : State} (h : StateInv s) : StateInv (ddsTick s) := by
  rw [ddsTick_spec]
  refine { h with holdBound := fun harb => ?_ }
  have hold := h.holdBound harb
  dsimp only
  split
  · next hcount =>
    have hpos : s.holdCnt.toNat ≠ 0 := fun hz => hcount.2 (BitVec.eq_of_toNat_eq hz)
    rw [BitVec.toNat_sub_of_le (by rw [BitVec.le_def]; simp; omega)]
    exact Nat.le_trans (Nat.sub_le _ _) hold
  · exact hold

theorem stateInv_pbTick {s : State} (h : StateInv s) (b : Byte) (hen : s.pbEn = true) : StateInv (pbTick b s) := by
  obtain ⟨-, -, hthresh, -⟩ := paramsLawful_spec h.cfgLawful
  have harb := h.pbEnPlays hen
  rcases Nat.lt_or_ge (sentAfter s.cfg b s.sentCnt) s.cfg.sentThresh with hruns | hends
  · rw [pbTick_runs hruns]
    exact { h with sentBelow := hruns }
  · rw [pbTick_ends hends]
    exact { h with
      oneSource := by simp
      pbEnPlays := nofun
      cursorEn := ⟨rfl, rfl⟩
      sentBelow := hthresh
      playWaits := fun _ => rfl }

/-! The accepted commands. -/

/-- BUILDPLAN's plan of a message that fits: whole octets, at least the preamble, within PLAN_MAX, beginning with a start
bit, in canonical form. -/
theorem buildPlan_message {s : State} (hlawful : paramsLawful s.cfg = true) (hmsg : s.msgLen.toNat ≤ s.cfg.msgMax) :
    let g := buildPlan s.cfg s.message s.framer
    g.planLen.toNat % 8 = 0 ∧ 24 ≤ g.planLen.toNat ∧ g.planLen.toNat ≤ s.cfg.planMax ∧ g.bit 0 = false
      ∧ (Memory.wf s.plan → Memory.wf g.plan) := by
  obtain ⟨-, -, -, hc, -, -, -, htables⟩ := paramsLawful_spec hlawful
  have hfits := planCodes_message_fits hmsg
  obtain ⟨hbits, hlen, -⟩ := buildPlan_fits hc s.framer hfits
  have hthree : 3 ≤ (planCodes s.cfg s.message).length := by
    rw [planCodes_lawful htables]
    simp
  dsimp only
  refine ⟨by omega, by omega, by omega, ?_, fun hwf => ?_⟩
  · have hhead : (buildPlan s.cfg s.message s.framer).bits[0]? = some false := by
      rw [hbits, planCodes_lawful htables]
      rfl
    rw [Framer.bits, List.getElem?_map, List.getElem?_range (by omega)] at hhead
    exact Option.some.inj hhead
  · rw [buildPlan_spec]
    exact appendSyms_wf _ _ hwf

theorem stateInv_sendAccept {s : State} (h : StateInv s) (harb : s.arb = .idle) : StateInv (sendAccept s) := by
  obtain ⟨hoctets, hlong, hfits, hstart, hwf⟩ := buildPlan_message h.cfgLawful h.msgFits
  have hnotPlaying : s.arb ≠ .playbackActive := by simp [harb]
  exact { h with
    pbEnPlays := fun hpb => absurd (h.pbEnPlays hpb) hnotPlaying
    playsNoDds := nofun
    ddsElse := fun _ => h.ddsElse hnotPlaying
    silentElse := fun hne => absurd rfl hne
    posInPlan := fun _ => Nat.lt_of_lt_of_le (show 0 < 24 by decide) hlong
    holdBound := fun _ => Nat.le_refl _
    planOctets := hoctets
    planFits := hfits
    toneInForce := fun _ => rfl
    playWaits := nofun
    savedSet := nofun
    posAtMost := Nat.zero_le _
    cells := ⟨h.cells.1, hwf h.cells.2⟩ }

theorem stateInv_playAccept {s : State} (h : StateInv s) (harb : s.arb = .idle) : StateInv (playAccept s) := by
  obtain ⟨-, -, hthresh, -⟩ := paramsLawful_spec h.cfgLawful
  rw [playAccept_spec]
  exact { h with
    oneSource := by simp
    pbEnPlays := fun _ => rfl
    playsNoDds := fun _ => rfl
    ddsElse := fun hne => absurd rfl hne
    silentElse := fun _ => h.silentElse (by simp [harb])
    posInPlan := nofun
    holdBound := nofun
    cursorEn := ⟨rfl, rfl⟩
    sentBelow := hthresh
    toneInForce := nofun
    playWaits := fun _ => rfl
    savedSet := fun _ => h.ddsElse (by simp [harb]) }

theorem stateInv_msgPut {s : State} (h : StateInv s) (c : Byte) : StateInv (msgPut c s) := by
  rcases Nat.lt_or_ge s.msgLen.toNat s.cfg.msgMax with hroom | hfull
  · have hlen := msgPut_msgLen_toNat c (msgMax_lt_of_paramsLawful h.cfgLawful) hroom
    have hwf := msgPut_wf c h.cells.1
    rw [msgPut_record]
    exact { h with
      msgFits := hlen.trans_le hroom
      cells := ⟨hwf, h.cells.2⟩ }
  · rw [msgPut_full c hfull]
    exact h

/-! Instructions and steps. -/

theorem stateInv_effect {s t : State} {i : Instr} (h : StateInv s) (he : Effect i s t) : StateInv t := by
  cases he with
  | same => exact h
  | cleared idle => exact { h with msgFits := Nat.zero_le _ }
  | put idle c => exact stateInv_msgPut h c
  | sent idle => exact stateInv_sendAccept h idle
  | played idle => exact stateInv_playAccept h idle
  | tone idle isCommand hi lo b pos =>
    obtain ⟨-, -, -, -, hbaud, -⟩ := paramsLawful_spec h.cfgLawful
    exact { h with baudPos := pos h.baudPos hbaud }
  | response idle isCommand v => exact { h with }
  | benched => exact { h with }
  | tick b _ enabled => exact stateInv_pbTick h b enabled

theorem stateInv_ownStep {mem : Nat → Byte} {s t : State} (h : StateInv s) (hs : ownStep mem s = .next t) :
    StateInv t := by
  rcases ownStep_cases hs with ⟨harb, -, rfl⟩ | ⟨harb, hdone, rfl⟩ | ⟨-, -, -, -, rfl⟩ | ⟨-, -, -, hen, rfl⟩ | ⟨-, -, rfl⟩
  · exact stateInv_bitAdvance h harb
  · exact stateInv_playComplete h harb hdone
  · exact stateInv_ddsTick h
  · exact stateInv_pbTick h _ hen
  · exact h

/-- What the outside offers and what the response port shows have no part in the invariants. -/
theorem stateInv_beginStep {s : State} (h : StateInv s) (r : List Stimulus) :
    StateInv { s with stimuli := r, rspPort := none } := { h with }

/-- Settles O54: a reset sets up the invariants, and every effect of an instruction and every own step keeps them. -/
theorem everyStepKeepsTheInvariants : Obligations.EveryStepKeepsTheInvariants := by
  unfold Obligations.EveryStepKeepsTheInvariants
  intro s t h hstep
  cases stepOn_case hstep with
  | reset offered resets => exact stateInv_resets h resets
  | taken f w r i offered isReady decodes effect => exact stateInv_effect (stateInv_beginStep h r) effect
  | own r result => exact stateInv_ownStep (stateInv_beginStep h r) result

/-! Faults and refusals (R250, R257). -/

/-- Settles O55: the invariants exclude two enabled sources, and the only refusal is the decoder's, which takes every command
word. -/
theorem invariantStatesNeverFault : Obligations.InvariantStatesNeverFault := by
  unfold Obligations.InvariantStatesNeverFault
  intro s h
  have hown (r : List Stimulus) : ∃ t, ownStep s.xmemByte { s with stimuli := r, rspPort := none } = .next t :=
    ownStep_total h.oneSource
  have henabled := (bothEnabled_eq_false_iff s).mpr h.oneSource
  cases hs : s.stimuli with
  | nil => exact .inl ((hown s.stimuli).imp fun t ht => (stepOn_nil hs).trans ht)
  | cons x r =>
    cases x with
    | quiet => exact .inl ((hown r).imp fun t ht => (stepOn_quiet hs).trans ht)
    | rst => exact .inl ⟨_, stepOn_rst hs⟩
    | cut n => exact .inl ⟨_, stepOn_cut hs⟩
    | unit f w =>
      cases hready : ready f s with
      | false => exact .inl ((hown s.stimuli).imp fun t ht => (stepOn_waiting hs henabled hready).trans ht)
      | true =>
        cases hdec : decode s.cfg f w with
        | ok i =>
          obtain ⟨t, ht⟩ := exec_total i { s with stimuli := r, rspPort := none }
          exact .inl ⟨t, (stepOn_ready hs henabled hready hdec).trans ht⟩
        | error e =>
          refine .inr ⟨f, w, r, e, rfl, ?notCommand, hdec, ?refused⟩
          case notCommand =>
            rintro rfl
            rw [decode_cmd32] at hdec
            cases hdec
          case refused =>
            show stepOn _ s = _
            rw [stepOn_unit hs, henabled, hready, if_neg Bool.false_ne_true, if_pos rfl]
            show runUnit f w { s with stimuli := r, rspPort := none } = _
            simp only [runUnit, hdec]

/-! The arbiter (R201). -/

/-- A command that is taken came as a command word. -/
theorem offered_command {s : State} {f : Format} {w : BitVec 32} {r : List Stimulus} {i : Instr}
    (h : s.stimuli = .unit f w :: r) (hdec : decode s.cfg f w = .ok i) (hi : i.format = .cmd32) :
    ∃ w r, s.stimuli = .unit .cmd32 w :: r ∧ decode s.cfg .cmd32 w = .ok i := by
  rcases format_of_wordOf (decode_eq_ok_iff.mp hdec) with hf | ⟨t, u, -, hu⟩
  · obtain rfl : f = .cmd32 := hf.symm.trans hi
    exact ⟨w, r, h, hdec⟩
  · rw [hi] at hu
    cases hu

/-- The moves of ARB by an instruction: none, or the accepts of SEND and PLAY. -/
theorem effect_arb {i : Instr} {s t : State} (h : Effect i s t) :
    t.arb = s.arb ∨ (s.arb = .idle ∧ i = .send ∧ t.arb = .rttyActive)
      ∨ (s.arb = .idle ∧ i = .play ∧ t.arb = .playbackActive) := by
  cases h with
  | sent idle isSend => exact .inr (.inl ⟨idle, isSend, rfl⟩)
  | played idle isPlay => exact .inr (.inr ⟨idle, isPlay, rfl⟩)
  | put idle c =>
    rw [msgPut_record]
    exact .inl rfl
  | tick b =>
    rw [pbTick_record]
    exact .inl rfl
  | same => exact .inl rfl
  | cleared => exact .inl rfl
  | tone => exact .inl rfl
  | response => exact .inl rfl
  | benched => exact .inl rfl

/-- The moves of ARB by the block's own step: none, or the ends of a transmission and of a playback. -/
theorem ownStep_arb {mem : Nat → Byte} {s t : State} (h : ownStep mem s = .next t) :
    t.arb = s.arb ∨ (s.arb = .rttyActive ∧ t.arb = .idle ∧ s.holdCnt = 0 ∧ s.planPos + 1 = s.planLen)
      ∨ (s.arb = .playbackActive ∧ t.arb = .idle ∧ s.pbDone = true) := by
  rcases ownStep_cases h with ⟨harb, hhold, rfl⟩ | ⟨harb, hdone, rfl⟩ | ⟨-, -, -, -, rfl⟩ | ⟨-, -, -, -, rfl⟩ | ⟨-, -, rfl⟩
  · by_cases hlast : s.planPos + 1 = s.planLen
    · rw [bitAdvance_last hlast]
      exact .inr (.inl ⟨harb, rfl, hhold, hlast⟩)
    · rw [bitAdvance_next hlast]
      exact .inl rfl
  · exact .inr (.inr ⟨harb, rfl, hdone⟩)
  · exact .inl (ddsTick_arb s)
  · rw [pbTick_record]
    exact .inl rfl
  · exact .inl rfl

/-- Settles O56: the moves of a reset, of the accepted instructions and of the block's own step, together. -/
theorem arbiterMovesOnlyByItsTable : Obligations.ArbiterMovesOnlyByItsTable := by
  unfold Obligations.ArbiterMovesOnlyByItsTable
  intro s t _ hstep
  cases stepOn_case hstep with
  | reset offered resets =>
    cases resets
    exact .inr (.inr (.inr (.inr (.inr ⟨rfl, offered⟩))))
  | taken f w r i offered isReady decodes effect =>
    rcases effect_arb effect with harb | ⟨hidle, rfl, harb⟩ | ⟨hidle, rfl, harb⟩
    · exact .inl harb
    · exact .inr (.inl ⟨hidle, harb, offered_command offered decodes rfl⟩)
    · exact .inr (.inr (.inr (.inl ⟨hidle, harb, offered_command offered decodes rfl⟩)))
  | own r result =>
    rcases ownStep_arb result with harb | ⟨hactive, harb, hhold, hlast⟩ | ⟨hplaying, harb, hdone⟩
    · exact .inl harb
    · exact .inr (.inr (.inl ⟨hactive, harb, hhold, hlast⟩))
    · exact .inr (.inr (.inr (.inr (.inl ⟨hplaying, harb, hdone⟩))))

end Sys2Proof.Proofs
end

section
/-! PROOFS. Who writes what (spec/10_state.md R47, 20_memory.md R65, R79; 41_bitstream_framer.md R149, R151;
43_sample_streamer.md R187): the frames of the effects and of the block's own step, and what they say of a whole step. -/

namespace Sys2Proof.Proofs
open Sys2Proof.Machine

/-! The parameters and the supplied memory (00_scope.md R6). -/

theorem ownStep_supply {mem : Nat → Byte} {s t : State} (h : ownStep mem s = .next t) :
    t.cfg = s.cfg ∧ t.xmem = s.xmem ∧ t.xmemTail = s.xmemTail := by
  rcases ownStep_cases h with ⟨-, -, rfl⟩ | ⟨-, -, rfl⟩ | ⟨-, -, -, -, rfl⟩ | ⟨-, -, -, -, rfl⟩ | ⟨-, -, rfl⟩
  · exact ⟨bitAdvance_cfg s, bitAdvance_xmem s, bitAdvance_xmemTail s⟩
  · exact ⟨rfl, rfl, rfl⟩
  · exact ⟨ddsTick_cfg s, ddsTick_xmem s, ddsTick_xmemTail s⟩
  · rw [pbTick_record]
    exact ⟨rfl, rfl, rfl⟩
  · exact ⟨rfl, rfl, rfl⟩

theorem stepOn_supply {mem : Nat → Byte} {s t : State} (h : stepOn mem s = .next t) :
    t.cfg = s.cfg ∧ t.xmem = s.xmem ∧ t.xmemTail = s.xmemTail := by
  cases stepOn_case h with
  | reset offered resets =>
    cases resets
    exact ⟨rfl, rfl, rfl⟩
  | taken f w r i offered isReady decodes effect =>
    obtain ⟨-, hcfg, hxmem, htail, -⟩ := effect_frame effect
    exact ⟨hcfg, hxmem, htail⟩
  | own r result =>
    obtain ⟨hcfg, hxmem, htail⟩ := ownStep_supply result
    exact ⟨hcfg, hxmem, htail⟩

/-- So a run reads one memory throughout. -/
theorem stepOn_xmemByte {mem : Nat → Byte} {s t : State} (h : stepOn mem s = .next t) : t.xmemByte = s.xmemByte := by
  obtain ⟨-, hxmem, htail⟩ := stepOn_supply h
  funext i
  rw [State.xmemByte, State.xmemByte, hxmem, htail]

/-- The block's own step reads the memory at XPOS alone, and so does every step. -/
theorem ownStep_congr {mem mem' : Nat → Byte} {s : State} (h : mem s.xpos = mem' s.xpos) :
    ownStep mem s = ownStep mem' s := by
  simp only [ownStep, h]

theorem runStep_congr {mem mem' : Nat → Byte} {s : State} (h : mem s.xpos = mem' s.xpos) :
    runStep mem s = runStep mem' s := by
  have hown (r : List Stimulus) (p : Option (BitVec 32)) :
      ownStep mem { s with stimuli := r, rspPort := p } = ownStep mem' { s with stimuli := r, rspPort := p } :=
    ownStep_congr h
  unfold runStep beginStep
  split <;> simp only [hown]

theorem stepOn_congr {mem mem' : Nat → Byte} {s : State} (h : mem s.xpos = mem' s.xpos) :
    stepOn mem s = stepOn mem' s := by
  have hrun (r : List Stimulus) : runStep mem { s with stimuli := r } = runStep mem' { s with stimuli := r } :=
    runStep_congr h
  unfold stepOn cutStep
  split <;> simp only [runStep_congr h, hrun]

/-- A run of the machine is a run under the memory that its first state describes. -/
theorem stepN_eq_stepNOn (n : Nat) (s : State) : stepN n s = stepNOn s.xmemByte n s := by
  induction n generalizing s with
  | zero => rfl
  | succ n ih =>
    have hstep : step s = stepOn s.xmemByte s := rfl
    simp only [stepN, stepNOn, hstep]
    cases ht : stepOn s.xmemByte s with
    | next t => simp only [ih t, stepOn_xmemByte ht]
    | fault r => rfl
    | refused r => rfl

/-- Settles O9: no case of a step writes the supply, and a run reads it where its first state does. -/
theorem runsUseTheSuppliedParametersAndMemory : Obligations.RunsUseTheSuppliedParametersAndMemory := by
  unfold Obligations.RunsUseTheSuppliedParametersAndMemory
  exact ⟨fun _ _ _ h => stepOn_supply h, fun _ _ _ h => stepOn_congr h, stepN_eq_stepNOn⟩

/-! The plan, SHIFT and the snapshot. -/

/-- The plan, the shift state and the snapshot of the tone, which SEND makes together. -/
def SamePlan (s t : State) : Prop :=
  t.plan = s.plan ∧ t.planLen = s.planLen ∧ t.shift = s.shift ∧ t.incHigh = s.incHigh ∧ t.incLow = s.incLow
    ∧ t.holdTicks = s.holdTicks

/-- The message and the tone registers, which SEND reads. -/
def SameMessage (s t : State) : Prop :=
  t.msg = s.msg ∧ t.msgLen = s.msgLen ∧ t.highHz = s.highHz ∧ t.lowHz = s.lowHz ∧ t.baudC = s.baudC

theorem ownStep_plan_message {mem : Nat → Byte} {s t : State} (h : ownStep mem s = .next t) :
    SamePlan s t ∧ SameMessage s t := by
  rcases ownStep_cases h with ⟨-, -, rfl⟩ | ⟨-, -, rfl⟩ | ⟨-, -, -, -, rfl⟩ | ⟨-, -, -, -, rfl⟩ | ⟨-, -, rfl⟩
  · simp [SamePlan, SameMessage]
  · simp [SamePlan, SameMessage]
  · simp [SamePlan, SameMessage]
  · rw [pbTick_record]
    simp [SamePlan, SameMessage]
  · simp [SamePlan, SameMessage]

/-- Only SEND makes a plan, and a busy block keeps its message. -/
theorem effect_plan_message {i : Instr} {s t : State} (h : Effect i s t) :
    (SamePlan s t ∨ (s.arb = .idle ∧ i = .send)) ∧ (s.arb ≠ .idle → SameMessage s t) := by
  cases h with
  | sent idle isSend => exact ⟨.inr ⟨idle, isSend⟩, fun hbusy => absurd idle hbusy⟩
  | put idle c => exact ⟨.inl (by simp [SamePlan]), fun hbusy => absurd idle hbusy⟩
  | cleared idle => exact ⟨.inl (by simp [SamePlan]), fun hbusy => absurd idle hbusy⟩
  | played idle => exact ⟨.inl (by simp [SamePlan]), fun hbusy => absurd idle hbusy⟩
  | tone idle => exact ⟨.inl (by simp [SamePlan]), fun hbusy => absurd idle hbusy⟩
  | response idle => exact ⟨.inl (by simp [SamePlan]), fun hbusy => absurd idle hbusy⟩
  | same => simp [SamePlan, SameMessage]
  | benched => simp [SamePlan, SameMessage]
  | tick b =>
    rw [pbTick_record]
    simp [SamePlan, SameMessage]

/-- Settles O48: a step that is no reset is an instruction's effect or the block's own step. -/
theorem planShiftAndSnapshotAreSendsAlone : Obligations.PlanShiftAndSnapshotAreSendsAlone := by
  unfold Obligations.PlanShiftAndSnapshotAreSendsAlone
  intro s t hstep hnotRst hnotCut
  cases stepOn_case hstep with
  | reset offered resets =>
    rcases offered with hrst | ⟨n, hcut⟩
    · exact absurd hrst hnotRst
    · exact absurd hcut (hnotCut n)
  | taken f w r i offered isReady decodes effect =>
    obtain ⟨hplan, hmessage⟩ := effect_plan_message effect
    refine ⟨?_, fun hactive => hmessage (by simp [hactive])⟩
    rcases hplan with hsame | ⟨hidle, rfl⟩
    · exact .inl hsame
    · exact .inr ⟨hidle, offered_command offered decodes rfl⟩
  | own r result =>
    obtain ⟨hplan, hmessage⟩ := ownStep_plan_message result
    exact ⟨.inl hplan, fun _ => hmessage⟩

/-! A playback (R187). -/

/-- What the registers hold while a cursor exists. -/
theorem playing_of_pbActive {s : State} (h : StateInv s) (hactive : s.pbActive = true) :
    s.pbEn = true ∧ s.arb = .playbackActive ∧ s.ddsEn = false ∧ s.pbDone = false := by
  have hen : s.pbEn = true := h.cursorEn.1 ▸ hactive
  have harb := h.pbEnPlays hen
  exact ⟨hen, harb, h.playsNoDds harb, by simpa [hen] using h.playWaits harb⟩

/-- An instruction taken in a playback is a playback tick or leaves the playback and the trace alone. -/
theorem effect_playing {i : Instr} {s t : State} (h : Effect i s t) (hbusy : s.arb ≠ .idle) :
    (∃ b, t = pbTick b s)
      ∨ (t.curSample = s.curSample ∧ t.sentCnt = s.sentCnt ∧ t.memCs = s.memCs ∧ t.xpos = s.xpos ∧ t.trace = s.trace) := by
  cases h with
  | tick b => exact .inl ⟨b, rfl⟩
  | same => exact .inr ⟨rfl, rfl, rfl, rfl, rfl⟩
  | benched => exact .inr ⟨rfl, rfl, rfl, rfl, rfl⟩
  | cleared idle => exact absurd idle hbusy
  | put idle => exact absurd idle hbusy
  | sent idle => exact absurd idle hbusy
  | played idle => exact absurd idle hbusy
  | tone idle => exact absurd idle hbusy
  | response idle => exact absurd idle hbusy

/-- Settles O50: with the cursor alive the block's own step is the tick, and no command is taken. -/
theorem onlyTheTickTouchesThePlayback : Obligations.OnlyTheTickTouchesThePlayback := by
  unfold Obligations.OnlyTheTickTouchesThePlayback
  intro s t h hactive hstep hnotRst hnotCut
  obtain ⟨hen, harb, hdds, hdone⟩ := playing_of_pbActive h hactive
  cases stepOn_case hstep with
  | reset offered resets =>
    rcases offered with hrst | ⟨n, hcut⟩
    · exact absurd hrst hnotRst
    · exact absurd hcut (hnotCut n)
  | taken f w r i offered isReady decodes effect =>
    exact (effect_playing effect (by simp [harb])).imp (fun ⟨b, hb⟩ => ⟨b, r, hb⟩) id
  | own r result =>
    rw [ownStep_eq_membyte (s := { s with stimuli := r, rspPort := none }) s.xmemByte hen hdds harb hdone,
      exec_membyte_enabled (s := { s with stimuli := r, rspPort := none }) _ hen] at result
    cases result
    exact .inl ⟨s.xmemByte s.xpos, r, rfl⟩

/-! The single writers (R47). -/

/-- The registers of the sequencer and the plan, which SEND alone writes. -/
theorem effect_of_ne_send {i : Instr} {s t : State} (h : Effect i s t) (hi : i ≠ .send) :
    t.inc = s.inc ∧ t.holdCnt = s.holdCnt ∧ t.planPos = s.planPos ∧ t.incHigh = s.incHigh ∧ t.incLow = s.incLow
      ∧ t.holdTicks = s.holdTicks ∧ t.plan = s.plan ∧ t.planLen = s.planLen ∧ t.shift = s.shift := by
  cases h with
  | sent idle isSend => exact absurd isSend hi
  | tick b =>
    rw [pbTick_record]
    simp
  | _ => simp

/-- The enables of the DDS source, which PLAY alone writes. -/
theorem effect_of_ne_play {i : Instr} {s t : State} (h : Effect i s t) (hi : i ≠ .play) :
    t.ddsEn = s.ddsEn ∧ t.savedDdsEn = s.savedDdsEn := by
  cases h with
  | played idle isPlay => exact absurd isPlay hi
  | tick b =>
    rw [pbTick_record]
    simp
  | sent => exact ⟨rfl, rfl⟩
  | _ => simp

/-- The registers of the playback, which PLAY and the streamed byte alone write. -/
theorem effect_playback_registers {i : Instr} {s t : State} (h : Effect i s t) (hi : i ≠ .play)
    (hbyte : i.format ≠ .memByte) : t.pbEn = s.pbEn ∧ t.pbActive = s.pbActive ∧ t.pbDone = s.pbDone
      ∧ t.memCs = s.memCs ∧ t.curSample = s.curSample ∧ t.sentCnt = s.sentCnt := by
  cases h with
  | played idle isPlay => exact absurd isPlay hi
  | tick b isMembyte => exact absurd (isMembyte ▸ rfl) hbyte
  | sent => exact ⟨rfl, rfl, rfl, rfl, rfl, rfl⟩
  | _ => simp

/-- No instruction but the streamed byte sends a converter frame. -/
theorem effect_trace {i : Instr} {s t : State} (h : Effect i s t) (hbyte : i.format ≠ .memByte) :
    ∃ es, t.trace = es ++ s.trace ∧ ∀ f, Event.dac f ∉ es := by
  cases h with
  | tick b isMembyte => exact absurd (isMembyte ▸ rfl) hbyte
  | played => exact ⟨[.memCmd (memHeader s.cfg), .memSel], rfl, by simp⟩
  | response idle isCommand v => exact ⟨[.rsp v], rfl, by simp⟩
  | put idle c => exact ⟨[], msgPut_trace c s, by simp⟩
  | same => exact ⟨[], rfl, by simp⟩
  | cleared => exact ⟨[], rfl, by simp⟩
  | sent => exact ⟨[], rfl, by simp⟩
  | tone => exact ⟨[], rfl, by simp⟩
  | benched => exact ⟨[], rfl, by simp⟩

/-- The units of the bench and reads of STATUS change nothing but the bench (log 1). -/
theorem effect_bench {i : Instr} {s t : State} (h : Effect i s t) (hcommand : i.format ≠ .cmd32)
    (hbyte : i.format ≠ .memByte) : t = { s with bench := t.bench } := by
  cases h with
  | same => rfl
  | benched => rfl
  | tick b isMembyte => exact absurd (isMembyte ▸ rfl) hbyte
  | cleared idle isMsgclr => exact absurd (isMsgclr ▸ rfl) hcommand
  | put idle c isMsgput => exact absurd (isMsgput ▸ rfl) hcommand
  | sent idle isSend => exact absurd (isSend ▸ rfl) hcommand
  | played idle isPlay => exact absurd (isPlay ▸ rfl) hcommand
  | tone idle isCommand => exact absurd isCommand hcommand
  | response idle isCommand => exact absurd isCommand hcommand

/-- Settles O57: the frames of the effects of an instruction, together. -/
theorem instructionsKeepToTheirWriters : Obligations.InstructionsKeepToTheirWriters := by
  unfold Obligations.InstructionsKeepToTheirWriters
  intro i s t hexec
  have h := exec_effect hexec
  obtain ⟨hacc, hcfg, hxmem, htail, hstimuli⟩ := effect_frame h
  have harb : i ≠ .send → i ≠ .play → t.arb = s.arb := by
    intro hsend hplay
    rcases effect_arb h with hsame | ⟨-, hi, -⟩ | ⟨-, hi, -⟩
    · exact hsame
    · exact absurd hi hsend
    · exact absurd hi hplay
  exact ⟨hacc, hcfg, hxmem, htail, hstimuli, harb, effect_of_ne_send h, effect_of_ne_play h,
    effect_playback_registers h, effect_trace h, effect_bench h⟩

end Sys2Proof.Proofs
end

section
/-! PROOFS. Reset and the wires (spec/30_encoding.md R105, R106; 70_reset_and_hazards.md R280 to R282): what the receivers sample,
and what a reset leaves of the transaction it cuts. -/

namespace Sys2Proof.Proofs
open Sys2Proof.Machine

/-! The ports (10_state.md R42, 70_reset_and_hazards.md R282). -/

/-- Settles O2: the ports are computed from the reset state. -/
theorem pinsAtResetAreIdle : Obligations.PinsAtResetAreIdle := by
  unfold Obligations.PinsAtResetAreIdle
  intro cfg
  have hstatus : (State.resetWith cfg).status = 0x08 :=
    show statusByte false false false true false 0 = 0x08 by decide
  rw [State.pins, hstatus]
  rfl

theorem statusByte_fields (d a p e sh : Bool) (k : BitVec 2) :
    (statusByte d a p e sh k).getLsbD 7 = false ∧ (statusByte d a p e sh k).getLsbD 6 = d
      ∧ (statusByte d a p e sh k).getLsbD 5 = a ∧ (statusByte d a p e sh k).getLsbD 4 = p
      ∧ (statusByte d a p e sh k).getLsbD 3 = e ∧ (statusByte d a p e sh k).getLsbD 2 = sh
      ∧ (statusByte d a p e sh k).extractLsb' 0 2 = k := by
  revert d a p e sh k
  decide

theorem shiftBit_eq_true_iff (t : Shift) : shiftBit t = true ↔ t = .figures := by
  cases t <;> decide

/-- Settles O58: STATUS is the concatenation of its fields. -/
theorem statusShowsTheControlBits : Obligations.StatusShowsTheControlBits := by
  unfold Obligations.StatusShowsTheControlBits
  intro s
  obtain ⟨hzero, hdone, hactive, hpb, hdds, hshift, harb⟩ :=
    statusByte_fields s.pbDone s.pbActive s.pbEn s.ddsEn (shiftBit s.shift) s.arb.code
  refine ⟨hzero, hdone, hactive, hpb, hdds, ?_, harb⟩
  rw [← shiftBit_eq_true_iff, ← hshift, State.status]

/-! The converter bus (R106). Each bit is three line changes, of which the second is the rising edge. -/

/-- Within the 16 bits the converter has sampled one for each rising edge that is out. -/
theorem dacSampled_take_dacShift (bs : List Bool) (m : Nat) (d : Bool) :
    dacSampled ⟨false, false, d⟩ ((dacShift ⟨false, false, d⟩ bs).take m) = bs.take ((m + 1) / 3) := by
  induction bs generalizing m d with
  | nil => simp [dacShift, dacSampled]
  | cons b bs ih =>
    match m with
    | 0 => rfl
    | 1 => rfl
    | 2 => rfl
    | m + 3 =>
      have hthird : (m + 3 + 1) / 3 = (m + 1) / 3 + 1 := by omega
      rw [hthird, List.take_succ_cons, ← ih m b]
      rfl

theorem dacShift_length (l : DacLines) (bs : List Bool) : (dacShift l bs).length = 3 * bs.length := by
  induction bs generalizing l with
  | nil => rfl
  | cons b bs ih =>
    simp only [dacShift, List.length_cons, ih]
    omega

/-- Between two bits the clock is low and the last bit stays on the data line. -/
theorem dacShift_getLastD (bs : List Bool) (d : Bool) :
    (dacShift ⟨false, false, d⟩ bs).getLastD ⟨false, false, d⟩ = ⟨false, false, bs.getLastD d⟩ := by
  induction bs generalizing d with
  | nil => rfl
  | cons b bs ih =>
    rw [List.getLastD_cons, ← ih b]
    simp only [dacShift, List.getLastD_cons]

@[simp] theorem bitsMsbFirst_length {n : Nat} (w : BitVec n) : (bitsMsbFirst w).length = n := by
  simp [bitsMsbFirst]

/-- The whole transaction: select, the bits, deselect. -/
theorem dacWave_eq (f : BitVec 16) :
    dacWave f = ⟨false, false, false⟩ :: (dacShift ⟨false, false, false⟩ (bitsMsbFirst f)
      ++ [⟨true, false, (bitsMsbFirst f).getLastD false⟩]) := by
  unfold dacWave
  simp only [DacLines.idle, List.getLastD_cons, dacShift_getLastD, List.cons_append]

theorem dacWave_length (f : BitVec 16) : (dacWave f).length = 50 := by
  simp [dacWave_eq, dacShift_length]

theorem dacSampled_append_deselect (ls : List DacLines) (p : DacLines) (d : Bool) :
    dacSampled p (ls ++ [⟨true, false, d⟩]) = dacSampled p ls := by
  induction ls generalizing p with
  | nil => simp [dacSampled]
  | cons l ls ih => simp only [List.cons_append, dacSampled, ih]

/-- After `n` line changes of a transaction the converter has sampled the first `n / 3` bits of the frame. -/
theorem dacSampled_take_dacWave (f : BitVec 16) (n : Nat) :
    dacSampled DacLines.idle ((dacWave f).take n) = (bitsMsbFirst f).take (n / 3) := by
  have hlen : (dacShift ⟨false, false, false⟩ (bitsMsbFirst f)).length = 48 := by simp [dacShift_length]
  rw [dacWave_eq]
  match n with
  | 0 => rfl
  | m + 1 =>
    rw [List.take_succ_cons, ← dacSampled_take_dacShift (bitsMsbFirst f) m false]
    rcases Nat.lt_or_ge 48 m with hall | hpart
    · rw [List.take_of_length_le (by simp [hlen]; omega), List.take_of_length_le (by omega)]
      exact dacSampled_append_deselect ..
    · rw [List.take_append_of_le_length (by omega)]
      rfl

theorem bitsMsbFirst_getLastD (f : BitVec 16) : (bitsMsbFirst f).getLastD false = f.getLsbD 0 := rfl

/-- Settles O59: the whole wave is the case of all 50 line changes. -/
theorem dacTransactionCarriesTheFrame : Obligations.DacTransactionCarriesTheFrame := by
  unfold Obligations.DacTransactionCarriesTheFrame
  intro f
  constructor
  · have hall := dacSampled_take_dacWave f 50
    rwa [List.take_of_length_le (by rw [dacWave_length]), List.take_of_length_le (by simp)] at hall
  · rw [dacWave_eq, bitsMsbFirst_getLastD, ← List.cons_append, List.getLast?_concat]

/-! The memory link (R105). -/

theorem memSampled_memShift (bs : List Bool) (d : Bool) :
    memSampled ⟨false, false, d⟩ (memShift ⟨false, false, d⟩ bs) = bs := by
  induction bs generalizing d with
  | nil => rfl
  | cons b bs ih => exact congrArg (b :: ·) (ih b)

theorem byteOfBits_bitsMsbFirst (b : BitVec 8) : byteOfBits (bitsMsbFirst b) = b := by
  revert b
  decide

/-- Settles O60: the header's bits are shifted out as the converter's are, and a byte is assembled bit by bit. -/
theorem memoryLinkCarriesWordAndByte : Obligations.MemoryLinkCarriesWordAndByte := by
  unfold Obligations.MemoryLinkCarriesWordAndByte
  exact ⟨fun w => memSampled_memShift (bitsMsbFirst w) false, byteOfBits_bitsMsbFirst, by decide⟩

/-! Resets (R280 to R282). -/

/-- Settles O3: a reset between two steps cuts nothing. -/
theorem rstAbandonsAnythingInProgress : Obligations.RstAbandonsAnythingInProgress := by
  unfold Obligations.RstAbandonsAnythingInProgress
  intro s r h
  show stepOn _ s = _
  rw [stepOn_rst h, applyReset, resetCutting_spec]
  rfl

@[simp] theorem resetWith_stimuli (cfg : Config) : (State.resetWith cfg).stimuli = [] := rfl

theorem eventsBetween_of_append {s t : State} {es : List Event} (h : t.trace = es ++ s.trace) :
    eventsBetween s t = es.reverse := by
  have hlen : (es ++ s.trace).length - s.trace.length = es.length := by simp
  rw [eventsBetween, h, hlen, List.take_left]

theorem eventWave_dac_length (f : BitVec 16) : (eventWave (.dac f)).length = 50 := by
  simp [eventWave, dacWave_length]

theorem eventWave_memRd_length (b : Byte) : (eventWave (.memRd b)).length = 16 := rfl

/-- A step that emits one converter frame: with fewer than 50 line changes out the frame is cut. -/
theorem cutAt_dac (n : Nat) (f : BitVec 16) :
    cutAt n [.dac f] = if n < 50 then ([], ((dacWave f).take n).map .dac) else ([.dac f], []) := by
  rw [cutAt, eventWave_dac_length]
  split
  · next hout => rw [if_neg (Nat.not_lt.mpr hout), cutAt]
  · next hcut => rw [if_pos (Nat.not_le.mp hcut), eventWave, List.map_take]

/-- A step that reads a byte behind a converter frame, cut within the byte's 16 line changes. -/
theorem cutAt_dac_memRd {n : Nat} (hframe : 50 ≤ n) (hbyte : n < 66) (f : BitVec 16) (b : Byte) (es : List Event) :
    cutAt n (.dac f :: .memRd b :: es) = ([.dac f], (memReadWave.take (n - 50)).map .mem) := by
  rw [cutAt, eventWave_dac_length, if_pos hframe, cutAt, eventWave_memRd_length, if_neg (by omega), eventWave,
    List.map_take]

/-- A reset that cuts a converter frame leaves the device's position as it is. -/
theorem resetWithin_dac (done : List Event) (ls : List DacLines) (s : State) :
    resetWithin done (ls.map .dac) s = resetCutting (ls.map .dac) (done.foldl (fun u e => observe e u) s) := by
  cases ls <;> rfl

/-- A reset that cuts a memory transaction leaves the device's position open. -/
theorem resetWithin_mem (done : List Event) {ls : List MemLines} (hne : ls ≠ []) (s : State) :
    resetWithin done (ls.map .mem) s
      = resetCutting (ls.map .mem) (losePosition (done.foldl (fun u e => observe e u) s)) := by
  cases ls with
  | nil => exact absurd rfl hne
  | cons l ls => rfl

/-- A playback tick's first two events are the frame of the buffered sample and the byte read. -/
theorem exists_pbTick_events (b : Byte) (s : State) :
    ∃ es, (pbTick b s).trace = (es ++ [.memRd b, .dac (dacFrame s.cfg s.curSample)]) ++ s.trace := by
  rcases Nat.lt_or_ge (sentAfter s.cfg b s.sentCnt) s.cfg.sentThresh with hruns | hends
  · exact ⟨[], by rw [pbTick_runs hruns]; rfl⟩
  · exact ⟨[.memDesel], by rw [pbTick_ends hends]; rfl⟩

theorem cutStep_of_next {mem : Nat → Byte} {s t : State} (n : Nat) (h : runStep mem s = .next t) :
    cutStep mem n s = resetWithin (cutAt n (eventsBetween s t)).1 (cutAt n (eventsBetween s t)).2
      { s with stimuli := t.stimuli } := by
  simp only [cutStep, h]

/-- The step that a single cut falls in is the block's own; its events `es`, newest first, decide what is cut. -/
theorem step_cut {s t : State} {n : Nat} {es done : List Event} {part : List BusLines} (h : s.stimuli = [.cut n])
    (hown : ownStep s.xmemByte { s with stimuli := [], rspPort := none } = .next t) (hevents : t.trace = es ++ s.trace)
    (hcut : cutAt n es.reverse = (done, part)) :
    step s = .next (resetWithin done part { s with stimuli := [] }) := by
  have hstimuli : t.stimuli = [] := ownStep_stimuli hown
  have hrun : runStep s.xmemByte { s with stimuli := [] } = .next t := hown
  have hbetween : eventsBetween { s with stimuli := [] } t = es.reverse := eventsBetween_of_append hevents
  show stepOn _ s = _
  rw [stepOn_cut h, cutStep_of_next n hrun, hbetween, hcut, hstimuli]

/-- Settles O4: any cut resets the block; the line changes are counted in a DDS tick's frame, and in a playback tick's frame
and byte. -/
theorem rstCutsTheTransactionUnderWay : Obligations.RstCutsTheTransactionUnderWay := by
  unfold Obligations.RstCutsTheTransactionUnderWay
  refine ⟨fun s n r h => ?resets, fun s n h hdds hpb hboundary hplayed hcs => ⟨dacSampled_take_dacWave _ n, ?tick⟩,
    fun s n h harb hdds hpb hdone hcs hframe hbyte => ?byte⟩
  case resets =>
    refine ⟨_, stepOn_cut h, ?_⟩
    have hresets := resets_of_stimuli (resets_cutStep s.xmemByte n { s with stimuli := r })
    generalize cutStep s.xmemByte n { s with stimuli := r } = u at hresets
    cases hresets
    rfl
  case tick =>
    have henabled : bothEnabled s = false := (bothEnabled_eq_false_iff s).mpr (by simp [hpb])
    have hown := ownStep_eq_ddsTick s.xmemByte (s := { s with stimuli := [], rspPort := none })
      henabled hboundary hplayed hdds
    have hcut := cutAt_dac n (dacFrame s.cfg (sampleOf s.cfg (s.acc + s.inc)))
    split at hcut
    · next hn =>
      rw [step_cut h hown (es := [_]) (ddsTick_trace _) hcut, resetWithin_dac, resetCutting_spec]
      simp [hcs, hn]
    · next hn =>
      rw [step_cut h hown (es := [_]) (ddsTick_trace _) hcut, ← List.map_nil (f := BusLines.dac), resetWithin_dac,
        resetCutting_spec]
      simp [hcs, hn, observe]
  case byte =>
    have hown := (ownStep_eq_membyte s.xmemByte (s := { s with stimuli := [], rspPort := none }) hpb hdds harb hdone).trans
      (exec_membyte_enabled (s := { s with stimuli := [], rspPort := none }) _ hpb)
    obtain ⟨es, hevents⟩ := exists_pbTick_events (s.xmemByte s.xpos) { s with stimuli := [], rspPort := none }
    have hcut : cutAt n (es ++ [Event.memRd (s.xmemByte s.xpos), Event.dac (dacFrame s.cfg s.curSample)]).reverse
        = ([.dac (dacFrame s.cfg s.curSample)], (memReadWave.take (n - 50)).map .mem) := by
      rw [List.reverse_append]
      exact cutAt_dac_memRd (Nat.le_of_lt hframe) hbyte _ _ es.reverse
    have hout : memReadWave.take (n - 50) ≠ [] := by
      rw [ne_eq, List.take_eq_nil_iff]
      exact not_or.mpr ⟨by omega, by decide⟩
    refine ⟨_, step_cut h hown hevents hcut, ?_⟩
    rw [resetWithin_mem _ hout, resetCutting_spec]
    simp [hcs, observe]

end Sys2Proof.Proofs
end

section
/-! PROOFS. Loading and sending a text (spec/45_host_commands.md R221 to R223, 30_encoding.md R104): the message after MSGCLR and
MSGPUTs, the start of a transmission, and the host that offers the words of SENDTEXT. -/

namespace Sys2Proof.Proofs
open Sys2Proof.Machine

/-! The message buffer. -/

/-- The message grows by the character put. -/
theorem msgPut_message (c : Byte) {s : State} (hmax : s.cfg.msgMax < 512) (hroom : s.msgLen.toNat < s.cfg.msgMax) :
    (msgPut c s).message = s.message ++ [c] := by
  have hbefore : ∀ i ∈ List.range s.msgLen.toNat, (msgPut c s).msgChar i = s.msgChar i := by
    intro i hi
    have hne : i ≠ s.msgLen.toNat := Nat.ne_of_lt (List.mem_range.mp hi)
    rw [State.msgChar, msgPut_read c hroom, if_neg hne, State.msgChar]
  rw [State.message, msgPut_msgLen_toNat c hmax hroom, List.range_succ, List.map_append, List.map_congr_left hbefore,
    List.map_singleton, msgPut_msgChar_same c hroom, State.message]

/-- The state after one MSGPUT for each character of a text. -/
def loadText (text : List Byte) (s : State) : State := text.foldl (fun u c => msgPut c u) s

/-- MSGPUTs write MSG and MSG_LEN alone. -/
theorem loadText_frame (text : List Byte) (s : State) :
    ∃ msg len, loadText text s = { s with msg := msg, msgLen := len } := by
  induction text generalizing s with
  | nil => exact ⟨s.msg, s.msgLen, rfl⟩
  | cons c cs ih =>
    obtain ⟨msg, len, h⟩ := ih (msgPut c s)
    refine ⟨msg, len, h.trans ?_⟩
    rw [msgPut_record]

/-- A text that fits behind the message is appended to it. -/
theorem loadText_message (text : List Byte) {s : State} (hmax : s.cfg.msgMax < 512)
    (hroom : s.msgLen.toNat + text.length ≤ s.cfg.msgMax) :
    (loadText text s).message = s.message ++ text ∧ (loadText text s).msgLen.toNat = s.msgLen.toNat + text.length := by
  induction text generalizing s with
  | nil => exact ⟨(List.append_nil _).symm, rfl⟩
  | cons c cs ih =>
    rw [List.length_cons] at hroom ⊢
    have hfirst : s.msgLen.toNat < s.cfg.msgMax := by omega
    have hlen := msgPut_msgLen_toNat c hmax hfirst
    obtain ⟨hmessage, htotal⟩ := ih (s := msgPut c s) (by simpa using hmax) (by simp [hlen]; omega)
    rw [msgPut_message c hmax hfirst, List.append_assoc] at hmessage
    exact ⟨hmessage, htotal.trans (by omega)⟩

/-- After MSGCLR a text that fits is the whole message. -/
theorem loadText_cleared_message (text : List Byte) {s : State} (hlawful : paramsLawful s.cfg = true)
    (hfits : text.length ≤ s.cfg.msgMax) :
    (loadText text { s with msgLen := 0 }).message = text
      ∧ (loadText text { s with msgLen := 0 }).msgLen.toNat = text.length := by
  have h := loadText_message text (s := { s with msgLen := 0 }) (msgMax_lt_of_paramsLawful hlawful) (by simpa using hfits)
  exact ⟨h.1, h.2.trans (Nat.zero_add _)⟩

theorem execAll_msgputs (text : List Byte) {s : State} (hidle : s.arb = .idle) :
    execAll (text.map Instr.msgput) s = .next (loadText text s) := by
  induction text generalizing s with
  | nil => rfl
  | cons c cs ih =>
    have hfirst := exec_msgput_idle c hidle
    simp only [List.map_cons, execAll, hfirst]
    exact ih (by simpa using hidle)

/-- Settles O20: MSGCLR empties the message, and the MSGPUTs append the text to it. -/
theorem loadedMessageIsTheText : Obligations.LoadedMessageIsTheText := by
  unfold Obligations.LoadedMessageIsTheText
  intro text s hidle hlawful hfits
  obtain ⟨hmessage, -⟩ := loadText_cleared_message text hlawful hfits
  refine ⟨loadText text { s with msgLen := 0 }, ?_, hmessage, ?_⟩
  · simp only [execAll, exec_msgclr_idle hidle]
    exact execAll_msgputs text (s := { s with msgLen := 0 }) hidle
  · obtain ⟨msg, len, h⟩ := loadText_frame text { s with msgLen := 0 }
    rw [h]

/-! SEND (R223, R165). -/

theorem sendAccept_planBit_zero {s : State} (hlawful : paramsLawful s.cfg = true)
    (hmsg : s.msgLen.toNat ≤ s.cfg.msgMax) : (sendAccept s).planBit 0 = false := by
  obtain ⟨-, -, -, hstart, -⟩ := buildPlan_message hlawful hmsg
  rw [State.planBit, sendAccept_framer, hstart]

theorem sendAccept_planBits {s : State} (hc : s.cfg.planMax < 8192) (hmsg : s.msgLen.toNat ≤ s.cfg.msgMax) :
    (sendAccept s).planBits = framedBits (planCodes s.cfg s.message) := by
  rw [State.planBits, sendAccept_framer, (buildPlan_fits hc s.framer (planCodes_message_fits hmsg)).1]

/-- The tone of the first bit. -/
theorem sendAccept_inc (s : State) : (sendAccept s).inc = (sendAccept s).sel ((sendAccept s).planBit 0) := rfl

/-- Settles O23: the first bit of the plan is a start bit, so its tone is the low one. -/
theorem sendStartsATransmission : Obligations.SendStartsATransmission := by
  unfold Obligations.SendStartsATransmission
  refine ⟨fun cfg res arg => decode_commandWord cfg 0x3 res arg, fun s hidle hlawful hmsg => ?_⟩
  obtain ⟨-, hlong, -⟩ := buildPlan_message hlawful hmsg
  have hstart := sendAccept_planBit_zero hlawful hmsg
  have hlow : (sendAccept s).inc = (sendAccept s).incLow := by rw [sendAccept_inc, hstart]; rfl
  exact ⟨sendAccept s, exec_send_idle hidle, rfl, rfl, hlong, rfl, rfl, rfl, rfl, hstart, hlow, sendAccept_record s⟩

/-! A host that offers commands (R103, R220). -/

/-- The step of an idle block runs the command whose encoded word is offered. -/
theorem step_offered {s : State} {i : Instr} {is : List Instr} (hidle : s.arb = .idle) (henabled : bothEnabled s = false)
    (hi : i.format = .cmd32) (h : s.stimuli = offers s.cfg (i :: is)) :
    step s = exec i { s with stimuli := offers s.cfg is, rspPort := none } := by
  have hdec : decode s.cfg .cmd32 (encode s.cfg i) = .ok i := by rw [decode_cmd32, decodeCmd_encode s.cfg hi]
  exact stepOn_ready h henabled (by simp [ready, State.cmdReady, hidle]) hdec

theorem stepN_succ {s t : State} (n : Nat) (h : step s = .next t) : stepN (n + 1) s = stepN n t := by
  simp only [stepN, h]

/-- MSGPUTs write neither the stimuli nor the response port. -/
theorem msgPut_withPorts (c : Byte) (s : State) (r : List Stimulus) (p : Option (BitVec 32)) :
    msgPut c { s with stimuli := r, rspPort := p } = { msgPut c s with stimuli := r, rspPort := p } := by
  unfold msgPut
  dsimp only
  split <;> rfl

/-- An idle block that is offered a MSGPUT for each character and SEND loads the text and accepts the SEND. -/
theorem stepN_text (text : List Byte) {s : State} (hidle : s.arb = .idle) (henabled : bothEnabled s = false)
    (h : s.stimuli = offers s.cfg (text.map Instr.msgput ++ [.send])) :
    stepN (text.length + 1) s = .next (sendAccept (loadText text { s with stimuli := [], rspPort := none })) := by
  induction text generalizing s with
  | nil =>
    have hstep := (step_offered hidle henabled rfl h).trans (exec_send_idle hidle)
    exact stepN_succ 0 hstep
  | cons c cs ih =>
    have hstep := (step_offered hidle henabled rfl h).trans (exec_msgput_idle c hidle)
    rw [msgPut_withPorts] at hstep
    have hports : ({ msgPut c s with stimuli := [], rspPort := none } : State)
        = msgPut c { s with stimuli := [], rspPort := none } := (msgPut_withPorts c s [] none).symm
    rw [List.length_cons, stepN_succ _ hstep]
    refine (ih (by simpa using hidle) (by simpa [bothEnabled] using henabled) (by simp)).trans ?_
    exact congrArg (fun u => Host.Outcome.next (sendAccept (loadText cs u))) hports

/-- Settles O26: MSGCLR, then the text and SEND; the plan is that of the message the SEND finds. -/
theorem offeredTextIsTransmitted : Obligations.OfferedTextIsTransmitted := by
  unfold Obligations.OfferedTextIsTransmitted
  intro text s h hidle hfits hoffers
  obtain ⟨-, -, -, hc, -⟩ := paramsLawful_spec h.cfgLawful
  have henabled := (bothEnabled_eq_false_iff s).mpr h.oneSource
  have hclear := (step_offered hidle henabled rfl hoffers).trans (exec_msgclr_idle hidle)
  have hrun := (stepN_succ _ hclear).trans (stepN_text text hidle henabled rfl)
  obtain ⟨hmessage, hlen⟩ :=
    loadText_cleared_message text (s := { s with stimuli := [], rspPort := none }) h.cfgLawful hfits
  obtain ⟨msg, len, hframe⟩ := loadText_frame text { s with stimuli := [], rspPort := none, msgLen := 0 }
  generalize loadText text _ = u at hrun hmessage hlen hframe
  have hstimuli : u.stimuli = [] := by rw [hframe]
  have htrace : u.trace = s.trace := by rw [hframe]
  have hcfg : u.cfg = s.cfg := by rw [hframe]
  have hplan := sendAccept_planBits (hcfg ▸ hc) (by rw [hlen, hcfg]; exact hfits)
  rw [hcfg, hmessage] at hplan
  exact ⟨sendAccept u, hrun, rfl, hstimuli, hmessage, hplan, htrace⟩

end Sys2Proof.Proofs
end

section
/-! PROOFS. The synthesizer's numbers (spec/42_dds_synth.md R162, R164, R168; 20_memory.md R64): the roundings, the idle tick, and
the sine table. -/

namespace Sys2Proof.Proofs
open Sys2Proof.Machine

/-- Settles O42: the idle tick is a DDS tick with nothing to add and no hold to count. -/
theorem idleTicksChangeNoRegister : Obligations.IdleTicksChangeNoRegister := by
  unfold Obligations.IdleTicksChangeNoRegister
  intro s hidle hinc hdds hpb hstimuli
  have htick := ddsTickAdvancesThePhase s.xmemByte { s with rspPort := none } hdds hpb (by simp [hidle]) (by simp [hidle])
  refine ((stepOn_nil hstimuli).trans htick).trans ?_
  simp [hidle, hinc, dacFrame, sampleOf, phaseIndex]

/-! Rounded quotients. -/

/-- Below F_DDS the increment fits its 32 bits, so it is the rounded quotient itself. -/
theorem phaseInc_toNat {cfg : Config} {f : BitVec 16} (h : f.toNat < cfg.fDds) :
    (phaseInc cfg f).toNat = (2 * f.toNat * 2 ^ 32 + cfg.fDds) / (2 * cfg.fDds) := by
  rw [phaseInc, BitVec.toNat_ofNat]
  apply Nat.mod_eq_of_lt
  rw [Nat.div_lt_iff_lt_mul (by omega)]
  omega

/-- Settles O44: a quotient rounded to the nearest is off by half the divisor at most. -/
theorem incrementIsNearestToTheFrequency : Obligations.IncrementIsNearestToTheFrequency := by
  unfold Obligations.IncrementIsNearestToTheFrequency
  intro cfg f _ hf
  have hdiv := Nat.div_add_mod (2 * f.toNat * 2 ^ 32 + cfg.fDds) (2 * cfg.fDds)
  have hmod := Nat.mod_lt (2 * f.toNat * 2 ^ 32 + cfg.fDds) (show 2 * cfg.fDds > 0 by omega)
  rw [← phaseInc_toNat hf] at hdiv
  have hcomm : 2 * (phaseInc cfg f).toNat * cfg.fDds = 2 * cfg.fDds * (phaseInc cfg f).toNat := by ring
  omega

/-- With a lawful DDS rate the hold of every rate but 0 fits its 32 bits. -/
theorem holdTicksOf_toNat {cfg : Config} (hrate : cfg.fDds ≤ 42949672) {b : BitVec 16} (hb : b ≠ 0) :
    (holdTicksOf cfg b).toNat = (2 * 100 * cfg.fDds + b.toNat) / (2 * b.toNat) := by
  have hpos : b.toNat ≠ 0 := fun hz => hb (BitVec.eq_of_toNat_eq hz)
  rw [holdTicksOf, if_neg hb, BitVec.toNat_ofNat]
  apply Nat.mod_eq_of_lt
  rw [Nat.div_lt_iff_lt_mul (by omega)]
  omega

/-- Settles O45: the default bounds are the holds of the greatest and of the least rate. -/
theorem holdIsNearestToTheBitInterval : Obligations.HoldIsNearestToTheBitInterval := by
  unfold Obligations.HoldIsNearestToTheBitInterval
  intro cfg b hlawful hb
  obtain ⟨-, hrate, -⟩ := paramsLawful_spec hlawful
  have hpos : b.toNat ≠ 0 := fun hz => hb (BitVec.eq_of_toNat_eq hz)
  have hlt := b.isLt
  have hstd : (holdTicksOf Config.std b).toNat = (2 * 100 * 80000 + b.toNat) / (2 * b.toNat) :=
    holdTicksOf_toNat (show 80000 ≤ 42949672 by decide) hb
  rw [hstd]
  refine ⟨holdTicksOf_toNat hrate hb, ?_, ?_⟩
  · rw [Nat.le_div_iff_mul_le (by omega)]
    omega
  · rw [← Nat.lt_succ_iff, Nat.div_lt_iff_lt_mul (by omega)]
    omega

/-- Settles O46: the checks run over the table. -/
theorem sineTableChecks : Obligations.SineTableChecks := by
  unfold Obligations.SineTableChecks
  exact ⟨by decide +kernel, by decide +kernel, by decide, by decide, by decide, by decide, by decide +kernel, by decide +kernel⟩

end Sys2Proof.Proofs
end

section
/-! PROOFS. A transmission (spec/42_dds_synth.md R161, R166, R173): a bit is HOLD_TICKS ticks and a BIT_ADVANCE, and a transmission
the bits of its plan one after another. -/

namespace Sys2Proof.Proofs
open Sys2Proof.Machine

/-! Runs. -/

theorem stepN_add {a b : Nat} {s t : State} (h : stepN a s = .next t) : stepN (a + b) s = stepN b t := by
  induction a generalizing s with
  | zero =>
    cases h
    rw [Nat.zero_add]
  | succ a ih =>
    cases hs : step s with
    | next u =>
      rw [stepN_succ a hs] at h
      rw [Nat.succ_add, stepN_succ (a + b) hs, ih h]
    | fault r => simp [stepN, hs] at h
    | refused r => simp [stepN, hs] at h

/-! What a stretch of a transmission keeps, adds and emits. -/

/-- A transmission under way with nothing offered. -/
structure Keying (s : State) : Prop where
  arb_eq : s.arb = .rttyActive
  ddsEn_eq : s.ddsEn = true
  pbEn_eq : s.pbEn = false
  stimuli_eq : s.stimuli = []

/-- From `s` to `u` the plan and the snapshot stay, the accumulator has moved on by `a`, and `n` converter frames are out. -/
structure Keyed (n a : Nat) (s u : State) : Prop where
  framer_eq : u.framer = s.framer
  incHigh_eq : u.incHigh = s.incHigh
  incLow_eq : u.incLow = s.incLow
  holdTicks_eq : u.holdTicks = s.holdTicks
  ddsEn_eq : u.ddsEn = s.ddsEn
  acc_eq : u.acc = s.acc + BitVec.ofNat 32 a
  frames : ∃ es, u.trace = es ++ s.trace ∧ es.length = n ∧ ∀ e ∈ es, ∃ f, e = Event.dac f

theorem Keyed.trans {n m a b : Nat} {s u v : State} (h : Keyed n a s u) (h' : Keyed m b u v) :
    Keyed (m + n) (a + b) s v := by
  obtain ⟨es, hes, hn, hdac⟩ := h.frames
  obtain ⟨fs, hfs, hm, hdac'⟩ := h'.frames
  exact {
    framer_eq := h'.framer_eq.trans h.framer_eq
    incHigh_eq := h'.incHigh_eq.trans h.incHigh_eq
    incLow_eq := h'.incLow_eq.trans h.incLow_eq
    holdTicks_eq := h'.holdTicks_eq.trans h.holdTicks_eq
    ddsEn_eq := h'.ddsEn_eq.trans h.ddsEn_eq
    acc_eq := by rw [h'.acc_eq, h.acc_eq, BitVec.ofNat_add, BitVec.add_assoc]
    frames := ⟨fs ++ es, by rw [hfs, hes, List.append_assoc], by rw [List.length_append, hm, hn],
      fun e he => (List.mem_append.mp he).elim (hdac' e) (hdac e)⟩ }

theorem Keying.enabled {s : State} (h : Keying s) : bothEnabled s = false :=
  (bothEnabled_eq_false_iff s).mpr (by simp [h.pbEn_eq])

/-- While the hold lasts a step is a tick of the bit's tone. -/
theorem step_hold {s : State} (h : Keying s) (hhold : s.holdCnt ≠ 0) :
    ∃ u, step s = .next u ∧ Keyed 1 s.inc.toNat s u ∧ Keying u ∧ u.holdCnt = s.holdCnt - 1 ∧ u.planPos = s.planPos
      ∧ u.inc = s.inc := by
  have hown := ownStep_eq_ddsTick s.xmemByte (s := { s with rspPort := none }) h.enabled
    (fun hboundary => hhold hboundary.2) (by simp [h.arb_eq]) h.ddsEn_eq
  refine ⟨_, (stepOn_nil h.stimuli_eq).trans hown, ?keyed, ?keying,
    (ddsTick_holdCnt _).trans (if_pos ⟨h.arb_eq, hhold⟩), ddsTick_planPos _, ddsTick_inc _⟩
  case keyed =>
    rw [ddsTick_spec]
    exact ⟨rfl, rfl, rfl, rfl, rfl, by simp, [_], rfl, rfl, by simp⟩
  case keying =>
    rw [ddsTick_spec]
    exact ⟨h.arb_eq, h.ddsEn_eq, h.pbEn_eq, h.stimuli_eq⟩

/-- At the end of the hold a step is BIT_ADVANCE. -/
theorem step_boundary {s : State} (h : Keying s) (hhold : s.holdCnt = 0) :
    step s = .next (bitAdvance { s with rspPort := none }) :=
  (stepOn_nil h.stimuli_eq).trans
    (ownStep_eq_bitAdvance s.xmemByte (s := { s with rspPort := none }) h.enabled ⟨h.arb_eq, hhold⟩)

theorem keyed_bitAdvance (s : State) : Keyed 0 0 s (bitAdvance { s with rspPort := none }) :=
  ⟨by simp [State.framer], by simp, by simp, by simp, by simp, by simp, [], by simp, rfl, by simp⟩

/-- What BIT_ADVANCE leaves: silence past the last bit, the next bit's tone and a full hold before. -/
structure BitEnds (s u : State) : Prop where
  last : s.planPos + 1 = s.planLen → u.arb = .idle ∧ u.inc = 0 ∧ u.planPos = u.planLen
  more : s.planPos + 1 ≠ s.planLen →
    Keying u ∧ u.planPos = s.planPos + 1 ∧ u.holdCnt = u.holdTicks ∧ u.inc = u.sel (u.planBit u.planPos.toNat)

/-- A bit: the rest of its hold in ticks of one tone, then BIT_ADVANCE. -/
theorem stepN_bit (n : Nat) {s : State} (h : Keying s) (hhold : s.holdCnt.toNat = n) :
    ∃ u, stepN (n + 1) s = .next u ∧ Keyed n (n * s.inc.toNat) s u ∧ BitEnds s u := by
  induction n generalizing s with
  | zero =>
    have hzero : s.holdCnt = 0 := BitVec.eq_of_toNat_eq hhold
    refine ⟨_, stepN_succ 0 (step_boundary h hzero), by simpa using keyed_bitAdvance s, fun hlast => ?_, fun hmore => ?_⟩
    · rw [bitAdvance_last (s := { s with rspPort := none }) hlast]
      exact ⟨rfl, rfl, hlast⟩
    · rw [bitAdvance_next (s := { s with rspPort := none }) hmore]
      exact ⟨⟨h.arb_eq, h.ddsEn_eq, h.pbEn_eq, h.stimuli_eq⟩, rfl, rfl, rfl⟩
  | succ n ih =>
    have hne : s.holdCnt ≠ 0 := fun hz => by rw [hz] at hhold; cases hhold
    obtain ⟨v, hstep, hkeyed, hkeying, hcnt, hpos, hinc⟩ := step_hold h hne
    have hv : v.holdCnt.toNat = n := by
      rw [hcnt, BitVec.toNat_sub_of_le (by rw [BitVec.le_def, hhold]; simp), hhold]
      rfl
    obtain ⟨u, hrun, hkeyed', hends⟩ := ih hkeying hv
    have hlen : v.planLen = s.planLen := congrArg Framer.planLen hkeyed.framer_eq
    have htotal : (n + 1) * s.inc.toNat = s.inc.toNat + n * v.inc.toNat := by
      rw [hinc]
      ring
    refine ⟨u, (stepN_succ _ hstep).trans hrun, htotal ▸ hkeyed.trans hkeyed', ?_, ?_⟩
    · exact hpos ▸ hlen ▸ hends.last
    · exact hpos ▸ hlen ▸ hends.more

/-! The bits of the plan. -/

theorem planBits_eq (s : State) : s.planBits = (List.range s.planLen.toNat).map s.planBit := rfl

/-- The bits from a position on are that bit and the bits after it. -/
theorem planBits_drop {s : State} {p : Nat} (h : p < s.planLen.toNat) :
    s.planBits.drop p = s.planBit p :: s.planBits.drop (p + 1) := by
  rw [List.drop_eq_getElem_cons (by simpa [planBits_eq] using h)]
  simp [planBits_eq]

/-- The increments of the tones of a list of bits, added up. -/
def incrementSum (s : State) (bs : List Bool) : Nat := (bs.map (fun b => (s.sel b).toNat)).sum

theorem incrementSum_eq_count (s : State) (bs : List Bool) :
    incrementSum s bs = bs.count true * s.incHigh.toNat + bs.count false * s.incLow.toNat := by
  induction bs with
  | nil => simp [incrementSum]
  | cons b bs ih =>
    have hcons : incrementSum s (b :: bs) = (s.sel b).toNat + incrementSum s bs := rfl
    rw [hcons, ih]
    cases b <;> simp [State.sel] <;> ring

/-- From the start of a bit to the end of the plan: every bit's hold at its own tone, then silence. -/
theorem stepN_transmission (n : Nat) {s : State} (h : Keying s) (hhold : s.holdCnt = s.holdTicks)
    (htone : s.inc = s.sel (s.planBit s.planPos.toNat)) (hpos : s.planPos.toNat + n + 1 = s.planLen.toNat) :
    ∃ u, stepN ((n + 1) * (s.holdTicks.toNat + 1)) s = .next u
      ∧ Keyed ((n + 1) * s.holdTicks.toNat)
          (s.holdTicks.toNat * incrementSum s (s.planBits.drop s.planPos.toNat)) s u
      ∧ u.arb = .idle ∧ u.inc = 0 ∧ u.planPos = u.planLen := by
  induction n generalizing s with
  | zero =>
    obtain ⟨u, hrun, hkeyed, hends⟩ := stepN_bit s.holdTicks.toNat h (congrArg BitVec.toNat hhold)
    have hsucc : (s.planPos + 1).toNat = s.planPos.toNat + 1 := planPos_succ_toNat (by omega)
    have hbits : s.planBits.drop s.planPos.toNat = [s.planBit s.planPos.toNat] := by
      rw [planBits_drop (by omega), List.drop_of_length_le (by simp [planBits_eq]; omega)]
    refine ⟨u, by simpa using hrun, ?_, hends.last (BitVec.eq_of_toNat_eq (by omega))⟩
    rw [hbits, Nat.zero_add, Nat.one_mul]
    simpa [incrementSum, htone] using hkeyed
  | succ n ih =>
    obtain ⟨v, hrun, hkeyed, hends⟩ := stepN_bit s.holdTicks.toNat h (congrArg BitVec.toNat hhold)
    have hsucc : (s.planPos + 1).toNat = s.planPos.toNat + 1 := planPos_succ_toNat (by omega)
    have hmore : s.planPos + 1 ≠ s.planLen := fun hlast => by
      have hlen := congrArg BitVec.toNat hlast
      omega
    obtain ⟨hkeying, hvpos, hvhold, hvtone⟩ := hends.more hmore
    have hlen : v.planLen = s.planLen := congrArg Framer.planLen hkeyed.framer_eq
    have hplan : v.planBits = s.planBits := congrArg Framer.bits hkeyed.framer_eq
    obtain ⟨u, hrun', hkeyed', hdone⟩ := ih hkeying hvhold hvtone (by rw [hvpos, hlen, hsucc]; omega)
    have hsum : s.holdTicks.toNat * incrementSum s (s.planBits.drop s.planPos.toNat)
        = s.holdTicks.toNat * s.inc.toNat
          + s.holdTicks.toNat * incrementSum v (v.planBits.drop v.planPos.toNat) := by
      rw [planBits_drop (by omega), hplan, hvpos, hsucc, htone, ← Nat.mul_add]
      simp [incrementSum, State.sel, hkeyed.incHigh_eq, hkeyed.incLow_eq]
    have hsteps : (n + 1 + 1) * (s.holdTicks.toNat + 1)
        = s.holdTicks.toNat + 1 + (n + 1) * (s.holdTicks.toNat + 1) := by ring
    have hframes : (n + 1 + 1) * s.holdTicks.toNat = (n + 1) * s.holdTicks.toNat + s.holdTicks.toNat := by ring
    rw [hkeyed.holdTicks_eq] at hrun' hkeyed'
    rw [hsteps, hframes, hsum, stepN_add hrun]
    exact ⟨u, hrun', hkeyed.trans hkeyed', hdone⟩

/-- Settles O47: SEND leaves the block at the start of the first bit of a plan that is not empty. -/
theorem transmissionKeysEveryBitAndEnds : Obligations.TransmissionKeysEveryBitAndEnds := by
  unfold Obligations.TransmissionKeysEveryBitAndEnds
  intro s t h hidle hstimuli hsend
  obtain rfl : sendAccept s = t := Host.Outcome.next.inj ((exec_send_idle hidle).symm.trans hsend)
  have ht := stateInv_sendAccept h hidle
  have hkeying : Keying (sendAccept s) := by
    have hdds : (sendAccept s).ddsEn = true := ht.ddsElse (by nofun)
    exact ⟨rfl, hdds, by simpa [hdds] using ht.oneSource, hstimuli⟩
  have hpos : (sendAccept s).planPos.toNat + ((sendAccept s).planLen.toNat - 1) + 1 = (sendAccept s).planLen.toNat := by
    have hin := ht.posInPlan rfl
    have hzero : (sendAccept s).planPos.toNat = 0 := rfl
    omega
  obtain ⟨u, hrun, hkeyed, harb, hinc, hend⟩ := stepN_transmission _ hkeying rfl rfl hpos
  have hlen : (sendAccept s).planLen.toNat - 1 + 1 = (sendAccept s).planLen.toNat := by omega
  have hall : (sendAccept s).planBits.drop (sendAccept s).planPos.toNat = (sendAccept s).planBits := rfl
  rw [hlen] at hrun hkeyed
  have hacc := hkeyed.acc_eq
  rw [hall, incrementSum_eq_count] at hacc
  exact ⟨u, hrun, harb, hinc, hend, congrArg Framer.bits hkeyed.framer_eq, congrArg Framer.planLen hkeyed.framer_eq,
    hkeyed.ddsEn_eq.trans hkeying.ddsEn_eq, hacc, hkeyed.frames⟩

end Sys2Proof.Proofs
end

section
/-! PROOFS. A playback (spec/43_sample_streamer.md R181 to R189; 44_transport_arbiter.md R204): its state after any number of
ticks without a run of sentinels, and the tick that completes the run. -/

namespace Sys2Proof.Proofs
open Sys2Proof.Machine

/-! Ticks with no run of SENT_THRESH sentinels. -/

/-- A playback under way with nothing offered. -/
structure Playing (s : State) : Prop where
  arb_eq : s.arb = .playbackActive
  ddsEn_eq : s.ddsEn = false
  pbEn_eq : s.pbEn = true
  pbDone_eq : s.pbDone = false
  stimuli_eq : s.stimuli = []

/-- The playback that began in `t`, after `n` ticks over the memory `mem` (R188, R189). -/
def playedTo (mem : Nat → Byte) (t : State) (n : Nat) : State :=
  { t with
    curSample := emittedSample mem n, sentCnt := sentinelRun t.cfg mem n, xpos := n
    trace := playbackEvents t.cfg mem n ++ t.trace, rspPort := if n = 0 then t.rspPort else none }

/-- The step of a playback is the tick of the byte at XPOS. -/
theorem stepOn_playing (mem : Nat → Byte) {s : State} (h : Playing s) :
    stepOn mem s = .next (pbTick (mem s.xpos) { s with rspPort := none }) :=
  (stepOn_nil h.stimuli_eq).trans
    ((ownStep_eq_membyte mem (s := { s with rspPort := none }) h.pbEn_eq h.ddsEn_eq h.arb_eq h.pbDone_eq).trans
      (exec_membyte_enabled (s := { s with rspPort := none }) _ h.pbEn_eq))

theorem playing_playedTo (mem : Nat → Byte) {t : State} (h : Playing t) (n : Nat) : Playing (playedTo mem t n) :=
  ⟨h.arb_eq, h.ddsEn_eq, h.pbEn_eq, h.pbDone_eq, h.stimuli_eq⟩

theorem stepOn_playedTo (mem : Nat → Byte) {t : State} (h : Playing t) {n : Nat}
    (hshort : sentinelRun t.cfg mem (n + 1) < t.cfg.sentThresh) :
    stepOn mem (playedTo mem t n) = .next (playedTo mem t (n + 1)) := by
  rw [stepOn_playing mem (playing_playedTo mem h n)]
  exact congrArg Host.Outcome.next (pbTick_runs (s := { playedTo mem t n with rspPort := none }) hshort)

theorem stepNOn_one (mem : Nat → Byte) {s t : State} (h : stepOn mem s = .next t) : stepNOn mem 1 s = .next t := by
  simp only [stepNOn, h]

/-- The state after `n` ticks, as long as no run is complete. -/
theorem stepNOn_playedTo (mem : Nat → Byte) {t : State} (h : Playing t) (hstart : playedTo mem t 0 = t) (n : Nat)
    (hshort : ∀ i ≤ n, sentinelRun t.cfg mem i < t.cfg.sentThresh) : stepNOn mem n t = .next (playedTo mem t n) := by
  induction n with
  | zero => exact congrArg Host.Outcome.next hstart.symm
  | succ n ih =>
    rw [stepNOn_add (ih fun i hi => hshort i (Nat.le_succ_of_le hi))]
    exact stepNOn_one mem (stepOn_playedTo mem h (hshort (n + 1) (Nat.le_refl _)))

/-! From PLAY on. -/

theorem playing_playAccept {s : State} (hstimuli : s.stimuli = []) : Playing (playAccept s) :=
  ⟨rfl, rfl, rfl, rfl, hstimuli⟩

theorem playedTo_zero_playAccept (mem : Nat → Byte) (s : State) : playedTo mem (playAccept s) 0 = playAccept s := rfl

/-- Settles O52: the state after `n` ticks is known. -/
theorem playbackGoesOnUntilARun : Obligations.PlaybackGoesOnUntilARun := by
  unfold Obligations.PlaybackGoesOnUntilARun
  intro mem s t n _ hidle hstimuli hshort hplay
  obtain rfl : playAccept s = t := Host.Outcome.next.inj ((exec_play_idle hidle).symm.trans hplay)
  exact ⟨_, stepNOn_playedTo mem (playing_playAccept hstimuli) (playedTo_zero_playAccept mem s) n hshort, rfl, rfl, rfl⟩

/-- The playback that began in `t`, ended by the tick of stream byte `e` (R183). -/
def playedOut (mem : Nat → Byte) (t : State) (e : Nat) : State :=
  { playedTo mem t (e + 1) with
    curSample := 0, sentCnt := 0, memCs := false, pbEn := false, pbActive := false, pbDone := true
    trace := .memDesel :: (playedTo mem t (e + 1)).trace }

/-- The tick that completes the run ends the playback. -/
theorem stepOn_playedTo_ends (mem : Nat → Byte) {t : State} (h : Playing t) {e : Nat}
    (hrun : t.cfg.sentThresh ≤ sentinelRun t.cfg mem (e + 1)) :
    stepOn mem (playedTo mem t e) = .next (playedOut mem t e) := by
  rw [stepOn_playing mem (playing_playedTo mem h e)]
  exact congrArg Host.Outcome.next (pbTick_ends (s := { playedTo mem t e with rspPort := none }) hrun)

/-- With PB_DONE set the step is PLAY_COMPLETE (R204). -/
theorem stepOn_playedOut (mem : Nat → Byte) {t : State} (h : Playing t) (e : Nat) :
    stepOn mem (playedOut mem t e) = .next (playComplete (playedOut mem t e)) :=
  (stepOn_nil (s := playedOut mem t e) h.stimuli_eq).trans (ownStep_eq_playComplete mem (s := playedOut mem t e)
    (by simp [bothEnabled, playedOut]) ⟨h.arb_eq, rfl⟩)

/-- In an idle block no cursor exists and nothing of the playback is enabled. -/
theorem not_playing_of_idle {s : State} (h : StateInv s) (hidle : s.arb = .idle) :
    s.pbEn = false ∧ s.pbActive = false ∧ s.memCs = false := by
  obtain ⟨hactive, hcs⟩ := h.cursorEn
  have hen : s.pbEn = false := by
    cases hpb : s.pbEn with
    | false => rfl
    | true => exact absurd (h.pbEnPlays hpb) (by simp [hidle])
  exact ⟨hen, hactive.trans hen, hcs.symm.trans hen⟩

/-- A completed playback leaves the block as it was but for PB_DONE, SAVED_DDS_EN, the cleared cursor and the device. -/
theorem playComplete_playedOut (mem : Nat → Byte) {s : State} (h : StateInv s) (hidle : s.arb = .idle) (e : Nat) :
    playComplete (playedOut mem (playAccept s) e) = { s with
      curSample := 0, sentCnt := 0, pbDone := true, savedDdsEn := s.ddsEn, xpos := e + 1, rspPort := none
      trace := .memDesel :: playbackEvents s.cfg mem (e + 1) ++ .memCmd (memHeader s.cfg) :: .memSel :: s.trace } := by
  obtain ⟨hen, hactive, hcs⟩ := not_playing_of_idle h hidle
  rw [playAccept_spec]
  simp only [playComplete, playedOut, playedTo, hen, hactive, hcs, hidle, Nat.succ_ne_zero, if_false, List.cons_append]

/-- Settles O51: `e` ticks, the tick that ends the run, and PLAY_COMPLETE. -/
theorem playbackEndsAtTheSentinelRun : Obligations.PlaybackEndsAtTheSentinelRun := by
  unfold Obligations.PlaybackEndsAtTheSentinelRun
  intro mem s t e h hidle hstimuli hends hplay
  obtain rfl : playAccept s = t := Host.Outcome.next.inj ((exec_play_idle hidle).symm.trans hplay)
  obtain ⟨hrun, hshort⟩ := hends
  have hplaying := playing_playAccept hstimuli
  have hticks := stepNOn_playedTo mem hplaying (playedTo_zero_playAccept mem s) e hshort
  have hlast : stepOn mem (playedTo mem (playAccept s) e) = .next (playedOut mem (playAccept s) e) :=
    stepOn_playedTo_ends mem hplaying hrun.ge
  have hcomplete := stepOn_playedOut mem hplaying e
  rw [stepNOn_add hticks, ← playComplete_playedOut mem h hidle e]
  simp only [stepNOn, hlast, hcomplete]

end Sys2Proof.Proofs
end
